-- ==== Sys2Proof/Word.lean ====
section
/-! DEFINITION. The words of the block: a bit, the 8-bit operation identifier, and the plain carrier `NumCode` of the
numbers whose format the spec leaves open. -/

namespace Sys2Proof

/-- `Bit` is {0, 1} (00_scope.md R11). -/
abbrev Bit := BitVec 1

/-- The 8-bit operation identifier `opid`; bit 0 is the least significant (30_encoding.md R75). -/
abbrev Opid := BitVec 8

/-- A `Num` of the machine as plain data (00_scope.md R11, R13). The number a code stands for, and every operation on
codes, belong to the open record NUMFMT (`Config.numfmt`): no rule sees how a `Num` is laid out (20_memory.md R53).
DESIGN CHOICE (log 1): the carrier is countable, so that two states can be compared and written out. -/
structure NumCode where
  code : Nat
deriving DecidableEq, Repr, Inhabited

/-- One transaction of the host (30_encoding.md R71): the word on `cmd` (R72) and the value on `rate` (R73). -/
structure Transaction (ν : Type) where
  cmd : Opid
  rate : ν
deriving DecidableEq, Repr

end Sys2Proof
end

