-- ==== Sys2Proof/Config.lean ====
section
/-! DEFINITION. What an instance of the block is built with: the numerics record NUMFMT (00_scope.md R13), the
parameter set `P` (R8, tables 4a and 4b), the values the spec leaves unspecified, and, for the one machine of
`Sys2Proof.core`, an opaque constant for each thing the spec leaves OPEN. -/

namespace Sys2Proof

/-- The numerics record NUMFMT: total functions over the type `ν` of numbers, one field per function of R13's list.
`floor` answers an integer, "the greatest integer not above x" (R12); DEDUCED (log 3). -/
structure NumFmt (ν : Type) where
  add : ν → ν → ν
  sub : ν → ν → ν
  mul : ν → ν → ν
  div : ν → ν → ν
  neg : ν → ν
  abs : ν → ν
  min : ν → ν → ν
  max : ν → ν → ν
  floor : ν → Int
  ofInt : Int → ν
  lt : ν → ν → Bool
  le : ν → ν → Bool
  eq : ν → ν → Bool
  isFinite : ν → Bool
  cos2pi : ν → ν
  sin2pi : ν → ν
  exp2 : ν → ν
deriving Inhabited

/-- The literal 0 of a rule. -/
abbrev NumFmt.zero {ν : Type} (F : NumFmt ν) : ν := F.ofInt 0

/-- The literal 1 of a rule. -/
abbrev NumFmt.one {ν : Type} (F : NumFmt ν) : ν := F.ofInt 1

/-- The parameter set `P` of an instance, "immutable for the life of an instance" (R8): NUMFMT and every entry of
tables 4a and 4b under its own name. A table of R47 is the list of its cells. -/
structure Params (ν : Type) where
  NUMFMT : NumFmt ν
  CLOCK : Int
  DELAY_FACTOR : ν
  DELAY_CAP : Nat
  FB : ν
  SM_IN : ν
  SM_FB : ν
  PD_LO : ν
  PD_HI : ν
  PW_LO : ν
  PW_HI : ν
  A4_HZ : ν
  A4_NOTE : Int
  SEMIS : Int
  LEAD_STEPS : Nat
  BASS_STEPS : Nat
  ARP_LEN : Nat
  ARP : List Int
  BASS_TRANSPOSE : Int
  LEAD_ENV_RATE : ν
  LEAD_VIB_DEPTH : ν
  LEAD_DETUNE : ν
  LEAD_DUTY1 : ν
  LEAD_DUTY2 : ν
  LEAD_GAIN : ν
  BASS_GAIN : ν
  LEAD_PITCH_LEN : Nat
  BASS_ROOT_LEN : Nat
  LEAD_TRIG : List Bit
  LEAD_PITCH : List Int
  BASS_ROOT : List Int
  LEAD_LFO_HZ : ν
  BASS_LFO_HZ : ν
  BASS_PW_OFFSET : ν
  BASS_PW_DEPTH : ν
  BASS_SUB_DUTY : ν

/-- The parameters of table 4b that are OPEN beside NUMFMT, at the decided table lengths (15 and 8, the second less
the cell `BASS_ROOT[0] = 0` that the spec gives). -/
structure OpenParams (ν : Type) where
  leadTrig : Vector Bit 256
  leadPitch : Vector Int 15
  bassRootRest : Vector Int 7
  leadLfoHz : ν
  bassLfoHz : ν
  bassSubDuty : ν

/-- The values the spec calls unspecified: the four derived registers after a RESET command (R151, R192; the argument
counts the draws) and the delay time where a number format makes the floored product negative (log 6). -/
structure FreeValues (ν : Type) where
  rate : Nat → ν
  period : Nat → ν
  spq : Nat → Nat
  dtime : Nat → Nat
  negativeDelay : Int → Nat

/-! ## The open constants of the machine: no body, so no proof can see what they are -/

/-- NUMFMT is OPEN (table 4b, D2). -/
opaque Config.numfmt : NumFmt NumCode

/-- `LEAD_TRIG: Bit[256]`, contents OPEN (D17). -/
opaque Config.leadTrig : Vector Bit 256

/-- `LEAD_PITCH: Int[15]`, contents OPEN (D17). -/
opaque Config.leadPitch : Vector Int 15

/-- `BASS_ROOT[1..7]`, contents OPEN (D18). -/
opaque Config.bassRootRest : Vector Int 7

/-- LEAD_LFO_HZ is OPEN (D15). -/
opaque Config.leadLfoHz : NumCode

/-- BASS_LFO_HZ is OPEN (D19). -/
opaque Config.bassLfoHz : NumCode

/-- BASS_SUB_DUTY is OPEN (D20). -/
opaque Config.bassSubDuty : NumCode

/-- The unspecified `RATE` after a RESET command (R151, U6). -/
opaque Config.freeRate : Nat → NumCode

/-- The unspecified `T` after a RESET command (R151, U6). -/
opaque Config.freePeriod : Nat → NumCode

/-- The unspecified `SPQ` after a RESET command, less one (R26 keeps `SPQ >= 1`). -/
opaque Config.freeSpq : Nat → Nat

/-- The unspecified `DTIME` after a RESET command, before its bound (R27). -/
opaque Config.freeDtime : Nat → Nat

/-- The delay time latched where the floored product is negative, before its bound (log 6). -/
opaque Config.freeNegativeDelay : Int → Nat

/-- The open parameters of the machine. -/
def Config.openParams : OpenParams NumCode where
  leadTrig := Config.leadTrig
  leadPitch := Config.leadPitch
  bassRootRest := Config.bassRootRest
  leadLfoHz := Config.leadLfoHz
  bassLfoHz := Config.bassLfoHz
  bassSubDuty := Config.bassSubDuty

/-- The unspecified values of the machine. -/
def Config.freeValues : FreeValues NumCode where
  rate := Config.freeRate
  period := Config.freePeriod
  spq := Config.freeSpq
  dtime := Config.freeDtime
  negativeDelay := Config.freeNegativeDelay

end Sys2Proof
end

