-- ==== Sys2Proof/Syntax.lean ====
section
/-! DEFINITION. The operation identifiers as syntax: one constructor per row of the opcode table (30_encoding.md R76).
No operand is encoded in an identifier (R77), so no constructor has an argument. -/

namespace Sys2Proof

/-- The 21 identifiers of R76: four host commands, then the 17 unit operations a TICK is built from. -/
inductive Instr where
  | nop
  | reset
  | init
  | tick
  | wrap1
  | clamp
  | pdsaw
  | pwm
  | tri
  | smooth
  | phadv
  | note2f
  | phinc
  | seql
  | seqb
  | envl
  | envb
  | lead
  | bass
  | dly
  | mix
deriving DecidableEq, Repr

end Sys2Proof
end

