-- ==== Sys2Proof/WellFormed.lean ====
section
/-! DEFINITION. The well-formedness checks: of a parameter set (00_scope.md R9), of an identifier as syntax and of a
host's transaction. A parameter set that fails R9 is no block at all, so R9 is a premise of claims and never a check
of the machine. -/

namespace Sys2Proof

/-- Every identifier is well formed: it has no operand field that could be out of range (30_encoding.md R77). -/
def Instr.wf (_ : Instr) : Bool := true

/-- A transaction is well formed when its word is one of the four host commands; the host must "never do" anything
else (46_mixer_and_commands.md R158). An ill-formed one still has its effect, the fault ILL_CMD. -/
def Transaction.wf {ν : Type} (t : Transaction ν) : Bool := decide (t.cmd.toNat < 4)

namespace Params

variable {ν : Type} (P : Params ν)

/-- "CLOCK is an integer >= 1" (R9). -/
def wfClock : Bool := decide (1 ≤ P.CLOCK)

/-- Every modulus and the delay capacity are at least 1 (R9). -/
def wfModuli : Bool :=
  decide (1 ≤ P.DELAY_CAP) && decide (1 ≤ P.LEAD_STEPS) && decide (1 ≤ P.BASS_STEPS) && decide (1 ≤ P.ARP_LEN)
    && decide (1 ≤ P.LEAD_PITCH_LEN) && decide (1 ≤ P.BASS_ROOT_LEN)

/-- "Every table has its stated length" (R9). Its clause on the cells of LEAD_TRIG holds by the type `Bit`. -/
def wfTables : Bool :=
  decide (P.LEAD_TRIG.length = P.LEAD_STEPS) && decide (P.LEAD_PITCH.length = P.LEAD_PITCH_LEN)
    && decide (P.ARP.length = P.ARP_LEN) && decide (P.BASS_ROOT.length = P.BASS_ROOT_LEN)

/-- `BASS_ROOT[0] = 0` (R9). -/
def wfRoot : Bool := decide (P.BASS_ROOT[0]? = some 0)

/-- The part of R9 that is about integers and tables. -/
def wfSizes : Bool := P.wfClock && P.wfModuli && P.wfTables && P.wfRoot

/-- `0 <= FB < 1` (R9). -/
def wfFeedback : Bool := P.NUMFMT.le P.NUMFMT.zero P.FB && P.NUMFMT.lt P.FB P.NUMFMT.one

/-- `lo < hi`, both strictly between 0 and 1. -/
def wfBounds (lo hi : ν) : Bool :=
  P.NUMFMT.lt lo hi && P.NUMFMT.lt P.NUMFMT.zero lo && P.NUMFMT.lt lo P.NUMFMT.one
    && P.NUMFMT.lt P.NUMFMT.zero hi && P.NUMFMT.lt hi P.NUMFMT.one

/-- The part of R9 that is about numbers. -/
def wfNums : Bool := P.wfFeedback && P.wfBounds P.PD_LO P.PD_HI && P.wfBounds P.PW_LO P.PW_HI

/-- The type "Num, > 0" of an LFO rate (00_scope.md table 4b), finite (92_eei_decisions.md, open parameters). -/
def wfLfo (hz : ν) : Bool := P.NUMFMT.isFinite hz && P.NUMFMT.lt P.NUMFMT.zero hz

/-- The constraints on the OPEN numbers beside NUMFMT (table 4b; 92_eei_decisions.md, open parameters): both LFO rates
finite and above 0, the sub-oscillator's duty finite. -/
def wfOpen : Bool :=
  P.wfLfo P.LEAD_LFO_HZ && P.wfLfo P.BASS_LFO_HZ && P.NUMFMT.isFinite P.BASS_SUB_DUTY

/-- A parameter set is well formed (R9). -/
def wf : Bool := P.wfSizes && P.wfNums

end Params

end Sys2Proof
end

