-- ==== Sys2Proof/Decode.lean ====
section
/-! DEFINITION. From words to identifiers and back (30_encoding.md sections 3 and 5). Decoding is total on every
8-bit word and rejects an unassigned one by name. -/

namespace Sys2Proof

/-- Why a word is the identifier of nothing (R75, R78). -/
inductive DecodeError where
  /-- an index that R76 does not assign, in one of the classes 0 to 7 -/
  | unassignedIndex
  /-- one of the classes 8 to 15, all unassigned -/
  | unassignedClass
deriving DecidableEq, Repr

/-- The decoder's answer: an identifier, or the name of the reason there is none. -/
inductive Decoded where
  | ok (i : Instr)
  | error (e : DecodeError)
deriving DecidableEq, Repr

/-- The identifier, if there is one. -/
def Decoded.instr? : Decoded → Option Instr
  | .ok i => some i
  | .error _ => none

/-- What a word asks for at the `cmd` port: the five answers of R78's total decoder. -/
inductive Command where
  | nop
  | reset
  | init
  | tick
  | illegal
deriving DecidableEq, Repr

/-- Bits 7:4 of an identifier (R75). -/
def opidClass (w : Opid) : Nat := (w.extractLsb' 4 4).toNat

/-- Bits 3:0 of an identifier (R75). -/
def opidIndex (w : Opid) : Nat := (w.extractLsb' 0 4).toNat

/-- The identifier map of R76, by class and index. -/
def decode (w : Opid) : Decoded :=
  match opidClass w, opidIndex w with
  | 0, 0 => .ok .nop
  | 0, 1 => .ok .reset
  | 0, 2 => .ok .init
  | 0, 3 => .ok .tick
  | 1, 0 => .ok .wrap1
  | 1, 1 => .ok .clamp
  | 1, 2 => .ok .pdsaw
  | 1, 3 => .ok .pwm
  | 1, 4 => .ok .tri
  | 1, 5 => .ok .smooth
  | 2, 0 => .ok .phadv
  | 2, 1 => .ok .note2f
  | 2, 2 => .ok .phinc
  | 3, 0 => .ok .seql
  | 3, 1 => .ok .seqb
  | 4, 0 => .ok .envl
  | 4, 1 => .ok .envb
  | 5, 0 => .ok .lead
  | 5, 1 => .ok .bass
  | 6, 0 => .ok .dly
  | 7, 0 => .ok .mix
  | c, _ => if c < 8 then .error .unassignedIndex else .error .unassignedClass

/-- R78's decoder: "every 8-bit value decodes to one of NOP, RESET, INIT, TICK or `illegal`". -/
def decodeCommand (w : Opid) : Command :=
  match decode w with
  | .ok .nop => .nop
  | .ok .reset => .reset
  | .ok .init => .init
  | .ok .tick => .tick
  | .ok _ => .illegal
  | .error _ => .illegal

/-- The class of an identifier (R75, R76). -/
def classOf : Instr → BitVec 4
  | .nop | .reset | .init | .tick => 0
  | .wrap1 | .clamp | .pdsaw | .pwm | .tri | .smooth => 1
  | .phadv | .note2f | .phinc => 2
  | .seql | .seqb => 3
  | .envl | .envb => 4
  | .lead | .bass => 5
  | .dly => 6
  | .mix => 7

/-- The index of an identifier in its class (R75, R76). -/
def indexOf : Instr → BitVec 4
  | .nop | .wrap1 | .phadv | .seql | .envl | .lead | .dly | .mix => 0
  | .reset | .clamp | .note2f | .seqb | .envb | .bass => 1
  | .init | .pdsaw | .phinc => 2
  | .tick | .pwm => 3
  | .tri => 4
  | .smooth => 5

/-- The word of an identifier: class in bits 7:4, index in bits 3:0 (R75). -/
def encode (i : Instr) : Opid := classOf i ++ indexOf i

/-- The decoder's answer for an instruction of `nbits` bits with value `w`, bit 0 least significant: one 8-bit word
(R79), so another length or a value of more than 8 bits is no instruction. -/
def decodeTableWord (nbits w : Nat) : Option Instr :=
  if nbits = 8 ∧ w < 256 then (decode (BitVec.ofNat 8 w)).instr? else none

end Sys2Proof
end

