-- ==== Sys2Proof/Machine/Block.lean ====
section
/-! DEFINITION. The state `S` of an instance as the spec lists it (10_state.md R20), for any type `ν` of numbers:
the control registers, the Lead, Bass and delay registers and the delay buffer; the modes, the fault causes, the
address spaces, and the reset values of R49. -/

namespace Sys2Proof.Machine

/-- The lifecycle mode (R28, 60_exceptions.md R180). The reserved value 3 is no constructor (U8). -/
inductive Mode where
  | unconfigured
  | running
  | failed
deriving DecidableEq, Repr

/-- The 2-bit value of MODE (R28). -/
def Mode.bits : Mode → BitVec 2
  | .unconfigured => 0
  | .running => 1
  | .failed => 2

/-- The fault causes (60_exceptions.md R171). The reserved value 7 is no constructor (U8). -/
inductive Cause where
  | none
  | cfgRate
  | cfgSpq
  | cfgDelay
  | tickUnconf
  | illCmd
  | nonfinite
deriving DecidableEq, Repr

/-- The 3-bit value of CAUSE (R29, R171). -/
def Cause.bits : Cause → BitVec 3
  | .none => 0
  | .cfgRate => 1
  | .cfgSpq => 2
  | .cfgDelay => 3
  | .tickUnconf => 4
  | .illCmd => 5
  | .nonfinite => 6

/-- The five private address spaces (20_memory.md R50). -/
inductive Space where
  | DBUF
  | LEAD_TRIG
  | LEAD_PITCH
  | ARP
  | BASS_ROOT
deriving DecidableEq, Repr

/-- The number of cells of a space (R50). -/
def Space.size {ν : Type} (P : Params ν) : Space → Nat
  | .DBUF => P.DELAY_CAP
  | .LEAD_TRIG => P.LEAD_STEPS
  | .LEAD_PITCH => P.LEAD_PITCH_LEN
  | .ARP => P.ARP_LEN
  | .BASS_ROOT => P.BASS_ROOT_LEN

/-- The six phase registers, the operand `reg` of PHADV (41_phase_accumulator.md R100). -/
inductive PhaseReg where
  | L_LFO
  | L_PH1
  | L_PH2
  | B_LFO
  | B_PH1
  | B_PH2
deriving DecidableEq, Repr

/-- The cells of the delay buffer that do not hold its reset value 0, by rising index. -/
abbrev DelayMemory (ν : Type) := List (Nat × ν)

/-- The state `S` (R20): "exactly" the registers of R24 to R29, R31 to R39, R40 to R44, R45 and the buffer of R46. -/
structure Block (ν : Type) where
  /-- R24: the sample rate latched by the last successful INIT. -/
  RATE : ν
  /-- R25: the sample period. -/
  T : ν
  /-- R26: samples per quarter note. -/
  SPQ : Nat
  /-- R27: the delay's read offset. -/
  DTIME : Nat
  /-- R28 -/
  MODE : Mode
  /-- R29: the first fault since the last RESET. -/
  CAUSE : Cause
  /-- R31: the Lead quantum counter. -/
  L_Q : Nat
  /-- R32: the Lead step index. -/
  L_STEP : Nat
  /-- R33: the pitch-table index. -/
  L_PIDX : Nat
  /-- R34 -/
  L_ARMED : Bool
  /-- R35: the one-shot gate. -/
  L_GATE : Bool
  /-- R36: the Lead envelope accumulator. -/
  L_EACC : ν
  /-- R37: the smoother's retained output. -/
  L_ESM : ν
  /-- R38: the vibrato phase. -/
  L_LFO : ν
  /-- R39 -/
  L_PH1 : ν
  /-- R39 -/
  L_PH2 : ν
  /-- R40: the Bass quantum counter. -/
  B_Q : Nat
  /-- R41: the Bass step index. -/
  B_STEP : Nat
  /-- R42: the root-note index. -/
  B_RIDX : Nat
  /-- R43: the Bass envelope. -/
  B_ENV : ν
  /-- R44 -/
  B_LFO : ν
  /-- R44 -/
  B_PH1 : ν
  /-- R44 -/
  B_PH2 : ν
  /-- R45: the write cursor. -/
  D_WCUR : Nat
  /-- R46: the delay buffer. -/
  DBUF : DelayMemory ν
deriving DecidableEq, Repr

variable {ν : Type}

/-- "Every register of sections 3 to 5 <- its reset value" and "every cell of DBUF <- 0" (R49, as R151 and R153 use
it). The control registers are left to the caller. -/
def resetRegisters (F : NumFmt ν) (b : Block ν) : Block ν :=
  { b with
    L_Q := 0, L_STEP := 0, L_PIDX := 0, L_ARMED := true, L_GATE := false
    L_EACC := F.zero, L_ESM := F.zero, L_LFO := F.zero, L_PH1 := F.zero, L_PH2 := F.zero
    B_Q := 0, B_STEP := 0, B_RIDX := 0, B_ENV := F.one
    B_LFO := F.zero, B_PH1 := F.zero, B_PH2 := F.zero
    D_WCUR := 0, DBUF := [] }

/-- The block at power-on (R190): mode UNCONFIGURED, no fault, R49's values. `RATE`, `T`, `SPQ`, `DTIME` are
unspecified there; the model names type-correct values (DESIGN CHOICE, log 4). -/
def powerOn (F : NumFmt ν) : Block ν where
  RATE := F.one
  T := F.one
  SPQ := 1
  DTIME := 0
  MODE := .unconfigured
  CAUSE := .none
  L_Q := 0
  L_STEP := 0
  L_PIDX := 0
  L_ARMED := true
  L_GATE := false
  L_EACC := F.zero
  L_ESM := F.zero
  L_LFO := F.zero
  L_PH1 := F.zero
  L_PH2 := F.zero
  B_Q := 0
  B_STEP := 0
  B_RIDX := 0
  B_ENV := F.one
  B_LFO := F.zero
  B_PH1 := F.zero
  B_PH2 := F.zero
  D_WCUR := 0
  DBUF := []

end Sys2Proof.Machine
end

