-- ==== Sys2Proof/Machine/State.lean ====
section
/-! DEFINITION. The state of the machine: the block, its ports as the host sees them, and what the host has still to
present; the stops of the model; and the state after reset. -/

namespace Sys2Proof.Machine

/-- Why the machine is stuck. No fault of the SPEC is here: those are `Cause`s, and taking one is a next state. -/
inductive Fault where
  /-- Raised by the table reads of SEQL and SEQB and by the buffer accesses of DLY when an index register lies
  outside its space, where "MemRead is defined only for 0 <= a < size(space)" (20_memory.md R51). Safe: no state that
  meets `Block.InRange` raises it, and every step keeps that invariant. -/
  | outOfRange (space : Space) (index : Nat)
deriving DecidableEq, Repr

/-- Why the model has no answer. -/
inductive Refusal where
  /-- Raised by an arm of `exec` whose instruction has no meaning yet; no arm does. Safe. -/
  | notModelled (mnemonic : String)
deriving DecidableEq, Repr

/-- The whole machine at transaction level (30_encoding.md R71 to R74). -/
structure State where
  /-- The state `S` of the instance (10_state.md R20); its MODE and CAUSE drive the outputs `mode` and `cause` (R74). -/
  block : Block NumCode
  /-- The output `sample`, present exactly when `sample_valid = 1` (R74, treatment U7); held until the next command. -/
  sample : Option NumCode
  /-- The input `rate` as the host last drove it (R73). -/
  ratePort : NumCode
  /-- The transactions the host has still to present, the next one first (R71, R80). -/
  pending : List (Transaction NumCode)
  /-- The model's own: how many times unspecified values have been drawn (log 5). -/
  freeIndex : Nat
deriving DecidableEq, Repr

/-- The output `sample_valid` (R74). -/
def State.sampleValid (s : State) : Bool := s.sample.isSome

/-- The output `mode` (R74). -/
def State.modePort (s : State) : BitVec 2 := s.block.MODE.bits

/-- The output `cause` (R74). -/
def State.causePort (s : State) : BitVec 3 := s.block.CAUSE.bits

/-- Power-on (70_reset_and_hazards.md R190), with nothing presented by the host. -/
def State.reset : State where
  block := powerOn Config.numfmt
  sample := none
  ratePort := Config.numfmt.zero
  pending := []
  freeIndex := 0

end Sys2Proof.Machine
end

