-- ==== Sys2Proof/Machine/Ops.lean ====
section
/-! DEFINITION. The shared operations of the rules (00_scope.md R15): `MemRead` and `MemWrite` on the five address
spaces, the named phase registers, add-then-wrap, taking a fault (60_exceptions.md R172) and the return from it,
which is RESET (R174, R178). -/

namespace Sys2Proof.Machine

variable {ν : Type}

/-! ## The delay buffer as plain data -/

/-- The cell at index `a`; an unlisted cell holds its reset value `zero` (R46, R59). -/
def DelayMemory.read (zero : ν) (m : DelayMemory ν) (a : Nat) : ν :=
  match m with
  | [] => zero
  | (b, v) :: rest => if a = b then v else DelayMemory.read zero rest a

/-- Replace the cell at index `a`; a cell that receives its reset value is no longer listed. -/
def DelayMemory.write [DecidableEq ν] (zero : ν) (m : DelayMemory ν) (a : Nat) (v : ν) : DelayMemory ν :=
  match m with
  | [] => if v = zero then [] else [(a, v)]
  | (b, w) :: rest =>
    if a < b then (if v = zero then (b, w) :: rest else (a, v) :: (b, w) :: rest)
    else if a = b then (if v = zero then rest else (a, v) :: rest)
    else (b, w) :: DelayMemory.write zero rest a v

/-- The canonical form: indices strictly rising from `lo`, no listed cell equal to the reset value. -/
def DelayMemory.wfFrom [DecidableEq ν] (zero : ν) (lo : Nat) (m : DelayMemory ν) : Bool :=
  match m with
  | [] => true
  | (b, v) :: rest => decide (lo ≤ b) && decide (v ≠ zero) && DelayMemory.wfFrom zero (b + 1) rest

/-- The canonical form of the buffer. -/
def Memory.wf [DecidableEq ν] (zero : ν) (m : DelayMemory ν) : Bool := DelayMemory.wfFrom zero 0 m

/-- Every listed cell lies below the capacity. -/
def DelayMemory.below (cap : Nat) (m : DelayMemory ν) : Bool := m.all fun c => decide (c.1 < cap)

/-! ## MemRead and MemWrite (20_memory.md R51): stuck outside a space -/

/-- One cell of a read-only table (R47, R50). -/
def readTable {α : Type} (space : Space) (table : List α) (a : Nat) : Except Fault α :=
  match table[a]? with
  | some cell => .ok cell
  | none => .error (.outOfRange space a)

/-- `MemRead(LEAD_TRIG, a)`. -/
def readLeadTrig (P : Params ν) (a : Nat) : Except Fault Bit := readTable .LEAD_TRIG P.LEAD_TRIG a

/-- `MemRead(LEAD_PITCH, a)`. -/
def readLeadPitch (P : Params ν) (a : Nat) : Except Fault Int := readTable .LEAD_PITCH P.LEAD_PITCH a

/-- `MemRead(ARP, a)`. -/
def readArp (P : Params ν) (a : Nat) : Except Fault Int := readTable .ARP P.ARP a

/-- `MemRead(BASS_ROOT, a)`. -/
def readBassRoot (P : Params ν) (a : Nat) : Except Fault Int := readTable .BASS_ROOT P.BASS_ROOT a

/-- `MemRead(DBUF, a)`. -/
def readDbuf (P : Params ν) (b : Block ν) (a : Nat) : Except Fault ν :=
  if a < P.DELAY_CAP then .ok (b.DBUF.read P.NUMFMT.zero a) else .error (.outOfRange .DBUF a)

/-- `MemWrite(DBUF, a, v)`. -/
def writeDbuf [DecidableEq ν] (P : Params ν) (b : Block ν) (a : Nat) (v : ν) : Except Fault (Block ν) :=
  if a < P.DELAY_CAP then .ok { b with DBUF := b.DBUF.write P.NUMFMT.zero a v } else .error (.outOfRange .DBUF a)

/-- The one mutation of an index register: `i <- (i + 1) mod N` (R52). -/
def addThenWrap (i n : Nat) : Nat := (i + 1) % n

/-! ## The named phase registers (10_state.md R38, R39, R44) -/

/-- `S.reg`. -/
def readPhase (b : Block ν) : PhaseReg → ν
  | .L_LFO => b.L_LFO
  | .L_PH1 => b.L_PH1
  | .L_PH2 => b.L_PH2
  | .B_LFO => b.B_LFO
  | .B_PH1 => b.B_PH1
  | .B_PH2 => b.B_PH2

/-- `S.reg <- v`. -/
def writePhase (b : Block ν) (r : PhaseReg) (v : ν) : Block ν :=
  match r with
  | .L_LFO => { b with L_LFO := v }
  | .L_PH1 => { b with L_PH1 := v }
  | .L_PH2 => { b with L_PH2 := v }
  | .B_LFO => { b with B_LFO := v }
  | .B_PH1 => { b with B_PH1 := v }
  | .B_PH2 => { b with B_PH2 := v }

/-! ## Taking a fault, and the return from it -/

/-- `raise Fault(c)` on the state `S` (60_exceptions.md R172): the first cause wins, the mode becomes FAILED, and
"nothing else is saved or changed". -/
def raiseFault (c : Cause) (b : Block ν) : Block ν :=
  { b with
    CAUSE := if b.MODE = .failed then b.CAUSE else c
    MODE := .failed }

/-- What RESET does to the state `S` (46_mixer_and_commands.md R151), the only exit from FAILED (60_exceptions.md R174):
`RATE`, `T`, `SPQ` and `DTIME` become unspecified, within the bounds of R26 and R27; `k` counts the draws. -/
def resetBlock (P : Params ν) (V : FreeValues ν) (k : Nat) (b : Block ν) : Block ν :=
  { resetRegisters P.NUMFMT b with
    MODE := .unconfigured
    CAUSE := .none
    RATE := V.rate k
    T := V.period k
    SPQ := V.spq k + 1
    DTIME := V.dtime k % P.DELAY_CAP }

/-- The machine after a command that leaves the block `b` and drives the outputs with `out` (30_encoding.md R74). -/
def State.complete (s : State) (b : Block NumCode) (out : Option NumCode) : State := { s with block := b, sample := out }

/-- `raise Fault(c)` as the whole of a command: the entry of R172, with `sample_valid <- 0`. -/
def State.raise (s : State) (c : Cause) : State := s.complete (raiseFault c s.block) none

/-- The rest of an illegal command (30_encoding.md R78): `raise Fault(ILL_CMD)` "and nothing else". -/
def State.illegalCommand (s : State) : State := s.raise .illCmd

end Sys2Proof.Machine
end

