-- ==== Sys2Proof/Machine/Operands.lean ====
section
/-! DEFINITION. The operand forms of the rules. No operand is encoded in an identifier (30_encoding.md R77): a command
takes the `rate` port, a unit operation takes registers, parameters, literals and the values of earlier operations. -/

namespace Sys2Proof.Machine

variable {ν : Type}

/-- A decimal literal `n/d` of the spec as a number of the format: the quotient of two integers, by NUMFMT's own
functions (DEDUCED, log 2). -/
def decimal (F : NumFmt ν) (n d : Int) : ν := F.div (F.ofInt n) (F.ofInt d)

/-- The literal 0.5 of PDSAW (40_waveform_primitives.md R92). -/
def half (F : NumFmt ν) : ν := decimal F 1 2

/-- The literal 2 of PWM and TRI (R93, R94). -/
def two (F : NumFmt ν) : ν := F.ofInt 2

/-- The operand of INIT: the value on the `rate` port (30_encoding.md R73). -/
def State.rateOperand (s : State) : NumCode := s.ratePort

/-- The delay time latched from the floored product (46_mixer_and_commands.md R153). The register is a `Nat` (10_state.md
R27): where a number format makes the floor negative its value is free, below the capacity (log 6). -/
def delayTimeOf (P : Params ν) (V : FreeValues ν) (dt : Int) : Nat :=
  if 0 ≤ dt then dt.toNat else V.negativeDelay dt % P.DELAY_CAP

/-- The read index of DLY: `(S.D_WCUR - S.DTIME) mod P.DELAY_CAP`, Euclidean (20_memory.md R65, 00_scope.md R12). -/
def delayTap (P : Params ν) (b : Block ν) : Nat := (((b.D_WCUR : Int) - (b.DTIME : Int)) % (P.DELAY_CAP : Int)).toNat

end Sys2Proof.Machine
end

