-- ==== Sys2Proof/Machine/Flags.lean ====
section
/-! DEFINITION. The flags. The block has two, `L_ARMED` and `L_GATE`, both written by SEQL alone (10_state.md R34, R35;
42_step_sequencer.md R111), and uses a flag as a factor through `b2n` (00_scope.md R15). -/

namespace Sys2Proof.Machine

variable {ν : Type}

/-- `b2n(c)`: the number 1 when true, the number 0 when false (R15). -/
def b2n (F : NumFmt ν) (c : Bool) : ν := if c then F.one else F.zero

/-- A restrike on a boundary: the trigger cell is 1 and the voice is armed (R111, "Armed -> Triggered"). -/
def restrikes (cell : Bit) (armed : Bool) : Bool := decide (cell = 1) && armed

/-- `L_ARMED` after a boundary that read `cell` (R111): cleared by a restrike, set by a 0 cell, else as it was. -/
def armedAfter (cell : Bit) (armed : Bool) : Bool :=
  if restrikes cell armed then false else if cell = 0 then true else armed

/-- `L_GATE` after the step index advanced to `step` (R111): set by the wrap to 0, never cleared. -/
def gateAfter (step : Nat) (gate : Bool) : Bool := if step = 0 then true else gate

end Sys2Proof.Machine
end

