-- ==== Sys2Proof/Machine/Parameters.lean ====
section
/-! DEFINITION. The parameter set with the values of 00_scope.md tables 4a and 4b (R8), for any number format and any
choice of the open parameters, and the set of the one machine of `Sys2Proof.core`. -/

namespace Sys2Proof.Machine

/-- Tables 4a and 4b: each literal of the source as the default of its parameter; the decided defaults of table 4b;
the OPEN parameters from `o`. -/
def defaultParams {ν : Type} (F : NumFmt ν) (o : OpenParams ν) : Params ν where
  NUMFMT := F
  CLOCK := 9
  DELAY_FACTOR := decimal F 398 100
  DELAY_CAP := 44100
  FB := decimal F 35 100
  SM_IN := decimal F 1 100
  SM_FB := decimal F 99 100
  PD_LO := decimal F 1 1000
  PD_HI := decimal F 999 1000
  PW_LO := decimal F 1 100
  PW_HI := decimal F 99 100
  A4_HZ := F.ofInt 440
  A4_NOTE := 69
  SEMIS := 12
  LEAD_STEPS := 256
  BASS_STEPS := 32
  ARP_LEN := 4
  ARP := [57, 57, 59, 60]
  BASS_TRANSPOSE := -12
  LEAD_ENV_RATE := F.ofInt 4
  LEAD_VIB_DEPTH := decimal F 1 10
  LEAD_DETUNE := decimal F 1 10
  LEAD_DUTY1 := decimal F 9 10
  LEAD_DUTY2 := decimal F 91 100
  LEAD_GAIN := decimal F 15 100
  BASS_GAIN := decimal F 3 10
  LEAD_PITCH_LEN := 15
  BASS_ROOT_LEN := 8
  LEAD_TRIG := o.leadTrig.toList
  LEAD_PITCH := o.leadPitch.toList
  BASS_ROOT := 0 :: o.bassRootRest.toList
  LEAD_LFO_HZ := o.leadLfoHz
  BASS_LFO_HZ := o.bassLfoHz
  BASS_PW_OFFSET := F.ofInt 0
  BASS_PW_DEPTH := F.ofInt 1
  BASS_SUB_DUTY := o.bassSubDuty

/-- The parameter set `P` of the machine. -/
def params : Params NumCode := defaultParams Config.numfmt Config.openParams

/-- The unspecified values of the machine. -/
def free : FreeValues NumCode := Config.freeValues

end Sys2Proof.Machine
end

