-- ==== Sys2Proof/Machine/Waveform.lean ====
section
/-! DEFINITION. Waveform primitives and the one-pole smoother (40_waveform_primitives.md): pure functions of their
operands. What their identifiers do on the `cmd` port is R78's illegal command. -/

namespace Sys2Proof.Machine

variable {ν : Type}

/-- WRAP1 (R90): `x - floor(x)`. -/
def wrap1 (F : NumFmt ν) (x : ν) : ν := F.sub x (F.ofInt (F.floor x))

/-- CLAMP (R91): `min(max(x, lo), hi)`. -/
def clamp (F : NumFmt ν) (x lo hi : ν) : ν := F.min (F.max x lo) hi

/-- The phase-distortion map of R92 with breakpoint `d`. -/
def pdMap (F : NumFmt ν) (phase d : ν) : ν :=
  if F.lt phase d then F.div (F.mul phase (half F)) d
  else F.add (half F) (F.div (F.mul (F.sub phase d) (half F)) (F.sub F.one d))

/-- PDSAW (R92): phase-distortion sawtooth, its duty clamped (R96). -/
def pdsaw (P : Params ν) (phase duty : ν) : ν :=
  let F := P.NUMFMT
  F.neg (F.cos2pi (pdMap F phase (clamp F duty P.PD_LO P.PD_HI)))

/-- PWM (R93): pulse-width wave, its width clamped (R96). -/
def pwm (P : Params ν) (phase width : ν) : ν :=
  let F := P.NUMFMT
  let w := clamp F width P.PW_LO P.PW_HI
  F.sub (F.mul (F.add (F.sub phase (wrap1 F (F.add phase w))) w) (two F)) F.one

/-- TRI (R94): `1 - |phase x 2 - 1|`. -/
def tri (F : NumFmt ν) (phase : ν) : ν := F.sub F.one (F.abs (F.sub (F.mul phase (two F)) F.one))

/-- SMOOTH (R95): `input x SM_IN + state x SM_FB`. -/
def smooth (P : Params ν) (state input : ν) : ν :=
  P.NUMFMT.add (P.NUMFMT.mul input P.SM_IN) (P.NUMFMT.mul state P.SM_FB)

/-- 0x10 on `cmd` (30_encoding.md R78). -/
def execWrap1 (s : State) : Host.Outcome State Fault Refusal := .next s.illegalCommand

/-- 0x11 on `cmd` (R78). -/
def execClamp (s : State) : Host.Outcome State Fault Refusal := .next s.illegalCommand

/-- 0x12 on `cmd` (R78). -/
def execPdsaw (s : State) : Host.Outcome State Fault Refusal := .next s.illegalCommand

/-- 0x13 on `cmd` (R78). -/
def execPwm (s : State) : Host.Outcome State Fault Refusal := .next s.illegalCommand

/-- 0x14 on `cmd` (R78). -/
def execTri (s : State) : Host.Outcome State Fault Refusal := .next s.illegalCommand

/-- 0x15 on `cmd` (R78). -/
def execSmooth (s : State) : Host.Outcome State Fault Refusal := .next s.illegalCommand

end Sys2Proof.Machine
end

