-- ==== Sys2Proof/Machine/Phase.lean ====
section
/-! DEFINITION. The phase accumulator, note to frequency, and phase increment (41_phase_accumulator.md). -/

namespace Sys2Proof.Machine

variable {ν : Type}

/-- PHADV (R100): advance one phase register and answer its post-advance value. -/
def phadv (F : NumFmt ν) (r : PhaseReg) (inc : ν) (b : Block ν) : Block ν × ν :=
  let v := wrap1 F (F.add (readPhase b r) inc)
  (writePhase b r v, v)

/-- NOTE2F (R101): `A4_HZ x 2^((note - A4_NOTE) / SEMIS)`. -/
def note2f (P : Params ν) (note : ν) : ν :=
  let F := P.NUMFMT
  F.mul P.A4_HZ (F.exp2 (F.div (F.sub note (F.ofInt P.A4_NOTE)) (F.ofInt P.SEMIS)))

/-- PHINC (R102): `f x S.T`. -/
def phinc (F : NumFmt ν) (b : Block ν) (f : ν) : ν := F.mul f b.T

/-- An oscillator's phase at a note: `PHADV(reg, PHINC(NOTE2F(note)))` (R103). -/
def oscillator (P : Params ν) (r : PhaseReg) (note : ν) (b : Block ν) : Block ν × ν :=
  phadv P.NUMFMT r (phinc P.NUMFMT b (note2f P note)) b

/-- An LFO's phase: `PHADV(reg, PHINC(hz))` (R103). -/
def lfo (P : Params ν) (r : PhaseReg) (hz : ν) (b : Block ν) : Block ν × ν :=
  phadv P.NUMFMT r (phinc P.NUMFMT b hz) b

/-- 0x20 on `cmd` (30_encoding.md R78). -/
def execPhadv (s : State) : Host.Outcome State Fault Refusal := .next s.illegalCommand

/-- 0x21 on `cmd` (R78). -/
def execNote2f (s : State) : Host.Outcome State Fault Refusal := .next s.illegalCommand

/-- 0x22 on `cmd` (R78). -/
def execPhinc (s : State) : Host.Outcome State Fault Refusal := .next s.illegalCommand

end Sys2Proof.Machine
end

