-- ==== Sys2Proof/Machine/Sequencer.lean ====
section
/-! DEFINITION. The step sequencers (42_step_sequencer.md). A tick is a quantum boundary for a voice when that voice's
quantum counter reads 0 at its start; the counter is advanced last (R110). -/

namespace Sys2Proof.Machine

variable {ν : Type}

/-- What SEQL returns (R111). -/
structure LeadEvent where
  restruck : Bool
  note : Int
  gate : Bool
deriving DecidableEq, Repr

/-- What SEQB returns (R112). -/
structure BassEvent where
  restruck : Bool
  note : Int
deriving DecidableEq, Repr

/-- The boundary part of SEQL (R111), on the trigger cell it read: the block and whether a note was restruck. -/
def leadBoundary (P : Params ν) (cell : Bit) (b : Block ν) : Block ν × Bool :=
  let restruck := restrikes cell b.L_ARMED
  ({ b with
      L_PIDX := if restruck then addThenWrap b.L_PIDX P.LEAD_PITCH_LEN else b.L_PIDX
      L_ARMED := armedAfter cell b.L_ARMED },
    restruck)

/-- The last action of SEQL (R111): advance the quantum counter; its wrap advances the step index, and a wrap of that
to 0 opens the gate. -/
def advanceLead (P : Params ν) (b : Block ν) : Block ν :=
  if b.L_Q + 1 = b.SPQ then
    { b with
      L_Q := 0
      L_STEP := addThenWrap b.L_STEP P.LEAD_STEPS
      L_GATE := gateAfter (addThenWrap b.L_STEP P.LEAD_STEPS) b.L_GATE }
  else { b with L_Q := b.L_Q + 1 }

/-- SEQL (R111). LEAD_TRIG is read on a boundary only; the note is read after the pitch index may have advanced; the
gate answered is the one before any update. -/
def seql (P : Params ν) (b : Block ν) : Except Fault (Block ν × LeadEvent) := do
  let (b1, restruck) ←
    if b.L_Q = 0 then
      match readLeadTrig P b.L_STEP with
      | .ok cell => .ok (leadBoundary P cell b)
      | .error f => .error f
    else .ok (b, false)
  let note ← readLeadPitch P b1.L_PIDX
  .ok (advanceLead P b1, { restruck := restruck, note := note, gate := b.L_GATE })

/-- The last action of SEQB (R112): advance the quantum counter; its wrap advances the step index, and a wrap of that
to 0 advances the root index. -/
def advanceBass (P : Params ν) (b : Block ν) : Block ν :=
  if b.B_Q + 1 = b.SPQ then
    { b with
      B_Q := 0
      B_STEP := addThenWrap b.B_STEP P.BASS_STEPS
      B_RIDX := if addThenWrap b.B_STEP P.BASS_STEPS = 0 then addThenWrap b.B_RIDX P.BASS_ROOT_LEN else b.B_RIDX }
  else { b with B_Q := b.B_Q + 1 }

/-- SEQB (R112): the note is the arpeggio cell plus the root cell plus the transposition, on the indexes as they stand
at the start of the tick. -/
def seqb (P : Params ν) (b : Block ν) : Except Fault (Block ν × BassEvent) := do
  let arp ← readArp P (b.B_STEP % P.ARP_LEN)
  let root ← readBassRoot P b.B_RIDX
  .ok (advanceBass P b, { restruck := decide (b.B_Q = 0), note := arp + root + P.BASS_TRANSPOSE })

/-- 0x30 on `cmd` (30_encoding.md R78). -/
def execSeql (s : State) : Host.Outcome State Fault Refusal := .next s.illegalCommand

/-- 0x31 on `cmd` (R78). -/
def execSeqb (s : State) : Host.Outcome State Fault Refusal := .next s.illegalCommand

end Sys2Proof.Machine
end

