-- ==== Sys2Proof/Machine/Envelope.lean ====
section
/-! DEFINITION. The envelope generators (43_envelope.md). -/

namespace Sys2Proof.Machine

variable {ν : Type}

/-- The Lead envelope accumulator after a tick: reset on a restrike, incremented, clamped to [0,1] (R120). -/
def leadAccumulator (P : Params ν) (restruck : Bool) (b : Block ν) : ν :=
  let F := P.NUMFMT
  clamp F (F.add (if restruck then F.zero else b.L_EACC) (F.mul P.LEAD_ENV_RATE b.T)) F.zero F.one

/-- ENVL (R120): the clamped accumulator is stored and smoothed, the smoothed value is stored and answered times the
gate. -/
def envl (P : Params ν) (restruck gate : Bool) (b : Block ν) : Block ν × ν :=
  let F := P.NUMFMT
  let acc := leadAccumulator P restruck b
  let sm := smooth P b.L_ESM acc
  ({ b with L_EACC := acc, L_ESM := sm }, F.mul sm (b2n F gate))

/-- ENVB (R121): the value before the decrement of `1 / SPQ`, re-armed to 1 on a restrike. -/
def envb (P : Params ν) (restruck : Bool) (b : Block ν) : Block ν × ν :=
  let F := P.NUMFMT
  let env := if restruck then F.one else b.B_ENV
  ({ b with B_ENV := F.sub env (F.div F.one (F.ofInt b.SPQ)) }, env)

/-- 0x40 on `cmd` (30_encoding.md R78). -/
def execEnvl (s : State) : Host.Outcome State Fault Refusal := .next s.illegalCommand

/-- 0x41 on `cmd` (R78). -/
def execEnvb (s : State) : Host.Outcome State Fault Refusal := .next s.illegalCommand

end Sys2Proof.Machine
end

