-- ==== Sys2Proof/Machine/Voices.lean ====
section
/-! DEFINITION. The voice processors (44_voices.md): the fixed wiring of sequencer, envelope, phase accumulators and
waveform primitives, in the order the rules write them (70_reset_and_hazards.md R197, R198). -/

namespace Sys2Proof.Machine

variable {ν : Type}

/-- The Lead note after vibrato: `ofInt(note) + LEAD_VIB_DEPTH x sin2pi(lfo) x env` (R130). -/
def modulatedNote (P : Params ν) (note : Int) (lfoPhase env : ν) : ν :=
  let F := P.NUMFMT
  F.add (F.ofInt note) (F.mul (F.mul P.LEAD_VIB_DEPTH (F.sin2pi lfoPhase)) env)

/-- LEAD after its sequencer answered `e` (R130). -/
def leadVoice (P : Params ν) (e : LeadEvent) (b : Block ν) : Block ν × ν :=
  let F := P.NUMFMT
  let (b1, env) := envl P e.restruck e.gate b
  let (b2, lfoPhase) := lfo P .L_LFO P.LEAD_LFO_HZ b1
  let nm := modulatedNote P e.note lfoPhase env
  let (b3, ph1) := oscillator P .L_PH1 nm b2
  let (b4, ph2) := oscillator P .L_PH2 (F.add nm P.LEAD_DETUNE) b3
  let s1 := F.mul (F.mul (pdsaw P ph1 P.LEAD_DUTY1) P.LEAD_GAIN) env
  let s2 := F.mul (F.mul (pdsaw P ph2 P.LEAD_DUTY2) P.LEAD_GAIN) env
  (b4, F.add s1 s2)

/-- LEAD (R130): one Lead voice sample. -/
def lead (P : Params ν) (b : Block ν) : Except Fault (Block ν × ν) := do
  let (b1, e) ← seql P b
  .ok (leadVoice P e b1)

/-- The pulse width of the Bass PWM oscillator: `BASS_PW_OFFSET + BASS_PW_DEPTH x TRI(lfo)` (R131). -/
def bassWidth (P : Params ν) (lfoPhase : ν) : ν :=
  P.NUMFMT.add P.BASS_PW_OFFSET (P.NUMFMT.mul P.BASS_PW_DEPTH (tri P.NUMFMT lfoPhase))

/-- BASS after its sequencer answered `e` (R131). -/
def bassVoice (P : Params ν) (e : BassEvent) (b : Block ν) : Block ν × ν :=
  let F := P.NUMFMT
  let (b1, env) := envb P e.restruck b
  let (b2, lfoPhase) := lfo P .B_LFO P.BASS_LFO_HZ b1
  let w := bassWidth P lfoPhase
  let (b3, ph1) := oscillator P .B_PH1 (F.ofInt e.note) b2
  let s1 := F.mul (F.mul (pwm P ph1 w) P.BASS_GAIN) env
  let (b4, ph2) := oscillator P .B_PH2 (F.ofInt (e.note - P.SEMIS)) b3
  let s2 := F.mul (pdsaw P ph2 P.BASS_SUB_DUTY) P.BASS_GAIN
  (b4, F.add s1 s2)

/-- BASS (R131): one Bass voice sample. -/
def bass (P : Params ν) (b : Block ν) : Except Fault (Block ν × ν) := do
  let (b1, e) ← seqb P b
  .ok (bassVoice P e b1)

/-- 0x50 on `cmd` (30_encoding.md R78). -/
def execLead (s : State) : Host.Outcome State Fault Refusal := .next s.illegalCommand

/-- 0x51 on `cmd` (R78). -/
def execBass (s : State) : Host.Outcome State Fault Refusal := .next s.illegalCommand

end Sys2Proof.Machine
end

