-- ==== Sys2Proof/Machine/Delay.lean ====
section
/-! DEFINITION. The feedback delay (45_delay.md). -/

namespace Sys2Proof.Machine

variable {ν : Type}

/-- DLY (R140): read the tap, write `x + FB x y` at the cursor, advance the cursor, answer the value read. The order
read, write, advance is normative (70_reset_and_hazards.md R196). -/
def dly [DecidableEq ν] (P : Params ν) (x : ν) (b : Block ν) : Except Fault (Block ν × ν) := do
  let y ← readDbuf P b (delayTap P b)
  let b1 ← writeDbuf P b b.D_WCUR (P.NUMFMT.add x (P.NUMFMT.mul P.FB y))
  .ok ({ b1 with D_WCUR := addThenWrap b.D_WCUR P.DELAY_CAP }, y)

/-- 0x60 on `cmd` (30_encoding.md R78). -/
def execDly (s : State) : Host.Outcome State Fault Refusal := .next s.illegalCommand

end Sys2Proof.Machine
end

