-- ==== Sys2Proof/Machine/Commands.lean ====
section
/-! DEFINITION. The mixer and the four host commands (46_mixer_and_commands.md). -/

namespace Sys2Proof.Machine

variable {ν : Type}

/-- MIX (R156): `(b + l) + d`. -/
def mix (F : NumFmt ν) (b l d : ν) : ν := F.add (F.add b l) d

/-- The fixed schedule of a TICK in RUNNING (R152): BASS, LEAD, DLY on this tick's Lead sample, MIX. -/
def schedule [DecidableEq ν] (P : Params ν) (b : Block ν) : Except Fault (Block ν × ν) := do
  let (b1, xb) ← bass P b
  let (b2, xl) ← lead P b1
  let (b3, xd) ← dly P xl b2
  .ok (b3, mix P.NUMFMT xb xl xd)

/-- The end of a TICK in RUNNING (R152): a non-finite sample is the fault NONFINITE, with the writes of the schedule
kept; a finite one is driven on `sample`. -/
def emit (P : Params ν) (b : Block ν) (out : ν) : Block ν × Option ν :=
  if P.NUMFMT.isFinite out then (b, some out) else (raiseFault .nonfinite b, none)

/-- TICK on the state `S` (R152): the block after it, and the sample if it produced one. -/
def tick [DecidableEq ν] (P : Params ν) (b : Block ν) : Except Fault (Block ν × Option ν) :=
  match b.MODE with
  | .unconfigured => .ok (raiseFault .tickUnconf b, none)
  | .failed => .ok (b, none)
  | .running => do
    let (b1, out) ← schedule P b
    .ok (emit P b1 out)

/-- The quarter-note length of R153: `rate / ofInt(CLOCK)`, a division of numbers (00_scope.md R10). -/
def quarterNote (P : Params ν) (rate : ν) : ν := P.NUMFMT.div rate (P.NUMFMT.ofInt P.CLOCK)

/-- `floor(qn)` of R153. -/
def spqOf (P : Params ν) (rate : ν) : Int := P.NUMFMT.floor (quarterNote P rate)

/-- `floor(qn x DELAY_FACTOR)` of R153. -/
def dtimeOf (P : Params ν) (rate : ν) : Int := P.NUMFMT.floor (P.NUMFMT.mul (quarterNote P rate) P.DELAY_FACTOR)

/-- The checks of INIT in their order (R153, 60_exceptions.md R176): the first that fails, or NONE. -/
def initCheck (P : Params ν) (rate : ν) : Cause :=
  if !(P.NUMFMT.isFinite rate && P.NUMFMT.lt P.NUMFMT.zero rate) then .cfgRate
  else if spqOf P rate < 1 then .cfgSpq
  else if (P.DELAY_CAP : Int) ≤ dtimeOf P rate then .cfgDelay
  else .none

/-- The block a successful INIT leaves (R153): the four derived registers, R49's reset values, RUNNING, no cause. -/
def configured (P : Params ν) (V : FreeValues ν) (rate : ν) (b : Block ν) : Block ν :=
  { resetRegisters P.NUMFMT b with
    RATE := rate
    T := P.NUMFMT.div P.NUMFMT.one rate
    SPQ := (spqOf P rate).toNat
    DTIME := delayTimeOf P V (dtimeOf P rate)
    MODE := .running
    CAUSE := .none }

/-- INIT on the state `S` (R153): refused without effect in FAILED; a failed check writes "nothing but MODE and
CAUSE". -/
def init (P : Params ν) (V : FreeValues ν) (rate : ν) (b : Block ν) : Block ν :=
  if b.MODE = .failed then b
  else if initCheck P rate = .none then configured P V rate b
  else raiseFault (initCheck P rate) b

/-- 0x70 on `cmd` (30_encoding.md R78). -/
def execMix (s : State) : Host.Outcome State Fault Refusal := .next s.illegalCommand

/-- NOP (R150): nothing but `sample_valid = 0`. -/
def execNop (s : State) : Host.Outcome State Fault Refusal := .next (s.complete s.block none)

/-- RESET (R151). The four unspecified values are drawn afresh. -/
def execReset (s : State) : Host.Outcome State Fault Refusal :=
  .next { s.complete (resetBlock params free s.freeIndex s.block) none with freeIndex := s.freeIndex + 1 }

/-- TICK (R152): render one sample. -/
def execTick (s : State) : Host.Outcome State Fault Refusal :=
  match tick params s.block with
  | .ok (b, out) => .next (s.complete b out)
  | .error f => .fault f

/-- INIT (R153), its operand the `rate` port. -/
def execInit (s : State) : Host.Outcome State Fault Refusal :=
  .next (s.complete (init params free s.rateOperand s.block) none)

end Sys2Proof.Machine
end

