-- ==== Sys2Proof/Machine/Dispatch.lean ====
section
/-! DEFINITION. What each identifier does on the `cmd` port: one arm per row of the opcode table. -/

namespace Sys2Proof.Machine

def exec (i : Instr) (s : State) : Host.Outcome State Fault Refusal :=
  match i with
  | .nop => Sys2Proof.Machine.execNop s
  | .reset => Sys2Proof.Machine.execReset s
  | .init => Sys2Proof.Machine.execInit s
  | .tick => Sys2Proof.Machine.execTick s
  | .wrap1 => Sys2Proof.Machine.execWrap1 s
  | .clamp => Sys2Proof.Machine.execClamp s
  | .pdsaw => Sys2Proof.Machine.execPdsaw s
  | .pwm => Sys2Proof.Machine.execPwm s
  | .tri => Sys2Proof.Machine.execTri s
  | .smooth => Sys2Proof.Machine.execSmooth s
  | .phadv => Sys2Proof.Machine.execPhadv s
  | .note2f => Sys2Proof.Machine.execNote2f s
  | .phinc => Sys2Proof.Machine.execPhinc s
  | .seql => Sys2Proof.Machine.execSeql s
  | .seqb => Sys2Proof.Machine.execSeqb s
  | .envl => Sys2Proof.Machine.execEnvl s
  | .envb => Sys2Proof.Machine.execEnvb s
  | .lead => Sys2Proof.Machine.execLead s
  | .bass => Sys2Proof.Machine.execBass s
  | .dly => Sys2Proof.Machine.execDly s
  | .mix => Sys2Proof.Machine.execMix s

end Sys2Proof.Machine
end

