-- ==== Sys2Proof/Machine/Units.lean ====
section
/-! DEFINITION. The unit operations as functions from (state, inputs) to (state, outputs) (00_scope.md R16), by the
identifiers that label them (30_encoding.md R75, R82). A TICK performs them; no port does. -/

namespace Sys2Proof.Machine

variable {ν : Type}

/-- A unit operation with its operands, as the rules write it: `OP(arg, ...)` (R82). -/
inductive UnitCall (ν : Type) where
  | wrap1 (x : ν)
  | clamp (x lo hi : ν)
  | pdsaw (phase duty : ν)
  | pwm (phase width : ν)
  | tri (phase : ν)
  | smooth (state input : ν)
  | phadv (reg : PhaseReg) (inc : ν)
  | note2f (note : ν)
  | phinc (f : ν)
  | seql
  | seqb
  | envl (restruck gate : Bool)
  | envb (restruck : Bool)
  | lead
  | bass
  | dly (x : ν)
  | mix (b l d : ν)
deriving DecidableEq, Repr

/-- What a unit operation returns. -/
inductive UnitResult (ν : Type) where
  | num (v : ν)
  | lead (e : LeadEvent)
  | bass (e : BassEvent)
deriving DecidableEq, Repr

/-- The identifier that labels a unit operation (R76). -/
def unitInstr : UnitCall ν → Instr
  | .wrap1 _ => .wrap1
  | .clamp _ _ _ => .clamp
  | .pdsaw _ _ => .pdsaw
  | .pwm _ _ => .pwm
  | .tri _ => .tri
  | .smooth _ _ => .smooth
  | .phadv _ _ => .phadv
  | .note2f _ => .note2f
  | .phinc _ => .phinc
  | .seql => .seql
  | .seqb => .seqb
  | .envl _ _ => .envl
  | .envb _ => .envb
  | .lead => .lead
  | .bass => .bass
  | .dly _ => .dly
  | .mix _ _ _ => .mix

/-- "Perform OP's rule now, with its state writes, and bind its return value" (R16). -/
def performUnit [DecidableEq ν] (P : Params ν) (u : UnitCall ν) (b : Block ν) :
    Except Fault (Block ν × UnitResult ν) :=
  match u with
  | .wrap1 x => .ok (b, .num (wrap1 P.NUMFMT x))
  | .clamp x lo hi => .ok (b, .num (clamp P.NUMFMT x lo hi))
  | .pdsaw phase duty => .ok (b, .num (pdsaw P phase duty))
  | .pwm phase width => .ok (b, .num (pwm P phase width))
  | .tri phase => .ok (b, .num (tri P.NUMFMT phase))
  | .smooth state input => .ok (b, .num (smooth P state input))
  | .phadv reg inc => .ok ((phadv P.NUMFMT reg inc b).1, .num (phadv P.NUMFMT reg inc b).2)
  | .note2f note => .ok (b, .num (note2f P note))
  | .phinc f => .ok (b, .num (phinc P.NUMFMT b f))
  | .seql => (seql P b).map fun r => (r.1, .lead r.2)
  | .seqb => (seqb P b).map fun r => (r.1, .bass r.2)
  | .envl restruck gate => .ok ((envl P restruck gate b).1, .num (envl P restruck gate b).2)
  | .envb restruck => .ok ((envb P restruck b).1, .num (envb P restruck b).2)
  | .lead => (lead P b).map fun r => (r.1, .num r.2)
  | .bass => (bass P b).map fun r => (r.1, .num r.2)
  | .dly x => (dly P x b).map fun r => (r.1, .num r.2)
  | .mix x l d => .ok (b, .num (mix P.NUMFMT x l d))

end Sys2Proof.Machine
end

