-- ==== Sys2Proof/Machine/Script.lean ====
section
/-! DEFINITION. What the host presents: a transaction at the ports (30_encoding.md R71 to R73), the command scripts
of R80 with the pseudo-commands of R81, and the result of a run (46_mixer_and_commands.md R159). -/

namespace Sys2Proof.Machine

/-- The state with transaction `t` at the ports and `rest` still to come. -/
def State.present (s : State) (t : Transaction NumCode) (rest : List (Transaction NumCode)) : State :=
  { s with ratePort := t.rate, pending := rest }

/-- A line of the command script of R80, or a pseudo-command of R81. -/
inductive ScriptLine (ν : Type) where
  | nop
  | reset
  | init (rate : ν)
  | tick
  | byte (w : Opid)
  | render (n : Nat)
  | start (rate : ν)
  | reinit (rate : ν)
deriving DecidableEq, Repr

/-- The transactions of a script line (R80, R81). `idle` is what stands on the `rate` port where a line gives no
rate; every command but INIT ignores it (R73). -/
def ScriptLine.transactions {ν : Type} (idle : ν) : ScriptLine ν → List (Transaction ν)
  | .nop => [{ cmd := 0x00, rate := idle }]
  | .reset => [{ cmd := 0x01, rate := idle }]
  | .init rate => [{ cmd := 0x02, rate := rate }]
  | .tick => [{ cmd := 0x03, rate := idle }]
  | .byte w => [{ cmd := w, rate := idle }]
  | .render n => List.replicate n { cmd := 0x03, rate := idle }
  | .start rate => [{ cmd := 0x01, rate := idle }, { cmd := 0x02, rate := rate }]
  | .reinit rate => [{ cmd := 0x02, rate := rate }]

/-- The transactions of a whole script, in order. -/
def scriptTransactions {ν : Type} (idle : ν) (lines : List (ScriptLine ν)) : List (Transaction ν) :=
  lines.flatMap (ScriptLine.transactions idle)

/-- The machine with a script presented after whatever is already pending. -/
def State.withScript (s : State) (lines : List (ScriptLine NumCode)) : State :=
  { s with pending := s.pending ++ scriptTransactions s.ratePort lines }

end Sys2Proof.Machine
end

