-- ==== Sys2Proof/Machine/Step.lean ====
section
/-! DEFINITION. One step of the machine: the host's next transaction, performed to completion. -/

namespace Sys2Proof.Machine

/-- One step (30_encoding.md R71): the next transaction is presented and its command performed; an unassigned word is
an illegal command (R78). With nothing presented the block is idle and the outputs hold (R71, 60_exceptions.md R188). -/
def step (s : State) : Host.Outcome State Fault Refusal :=
  match s.pending with
  | [] => .next s
  | t :: rest =>
    match decode t.cmd with
    | .ok i => exec i (s.present t rest)
    | .error _ => .next (s.present t rest).illegalCommand

/-- The machine with the word `w` presented as its next command, the `rate` port as it stands. A command is one 8-bit
word (R79). -/
def State.withFetchWord (s : State) (_nbits w : Nat) : State :=
  { s with pending := { cmd := BitVec.ofNat 8 w, rate := s.ratePort } :: s.pending }

end Sys2Proof.Machine
end

