-- ==== Sys2Proof/Watched.lean ====
section
/-! DEFINITION. Watched numbers: a number with a mark that says whether it, and every operation it came from, was
finite. The rules are written for any type of numbers, so the same rules run on watched numbers, and the marks then say
of every operation a tick used whether its result was finite. The property `finite_closed` (00_scope.md R14) is stated
with them; the machine does not use this file. -/

namespace Sys2Proof

/-- A number and its mark. -/
structure Watched (ν : Type) where
  value : ν
  finite : Bool
deriving DecidableEq, Repr

namespace NumFmt

variable {ν : Type} (F : NumFmt ν)

/-- The result `r` of an operation whose operands have the mark `operands`. -/
def result (operands : Bool) (r : ν) : Watched ν := { value := r, finite := operands && F.isFinite r }

/-- A number that comes from no operation: a literal, a parameter, the operand of INIT. -/
def watch (x : ν) : Watched ν := F.result true x

/-- The number format on watched numbers: every function answers what it answers on the values. -/
def watched : NumFmt (Watched ν) where
  add x y := F.result (x.finite && y.finite) (F.add x.value y.value)
  sub x y := F.result (x.finite && y.finite) (F.sub x.value y.value)
  mul x y := F.result (x.finite && y.finite) (F.mul x.value y.value)
  div x y := F.result (x.finite && y.finite) (F.div x.value y.value)
  neg x := F.result x.finite (F.neg x.value)
  abs x := F.result x.finite (F.abs x.value)
  min x y := F.result (x.finite && y.finite) (F.min x.value y.value)
  max x y := F.result (x.finite && y.finite) (F.max x.value y.value)
  floor x := F.floor x.value
  ofInt n := F.watch (F.ofInt n)
  lt x y := F.lt x.value y.value
  le x y := F.le x.value y.value
  eq x y := F.eq x.value y.value
  isFinite x := F.isFinite x.value
  cos2pi x := F.result x.finite (F.cos2pi x.value)
  sin2pi x := F.result x.finite (F.sin2pi x.value)
  exp2 x := F.result x.finite (F.exp2 x.value)

end NumFmt

/-- The parameter set on watched numbers. -/
def Params.watched {ν : Type} (P : Params ν) : Params (Watched ν) where
  NUMFMT := P.NUMFMT.watched
  CLOCK := P.CLOCK
  DELAY_FACTOR := P.NUMFMT.watch P.DELAY_FACTOR
  DELAY_CAP := P.DELAY_CAP
  FB := P.NUMFMT.watch P.FB
  SM_IN := P.NUMFMT.watch P.SM_IN
  SM_FB := P.NUMFMT.watch P.SM_FB
  PD_LO := P.NUMFMT.watch P.PD_LO
  PD_HI := P.NUMFMT.watch P.PD_HI
  PW_LO := P.NUMFMT.watch P.PW_LO
  PW_HI := P.NUMFMT.watch P.PW_HI
  A4_HZ := P.NUMFMT.watch P.A4_HZ
  A4_NOTE := P.A4_NOTE
  SEMIS := P.SEMIS
  LEAD_STEPS := P.LEAD_STEPS
  BASS_STEPS := P.BASS_STEPS
  ARP_LEN := P.ARP_LEN
  ARP := P.ARP
  BASS_TRANSPOSE := P.BASS_TRANSPOSE
  LEAD_ENV_RATE := P.NUMFMT.watch P.LEAD_ENV_RATE
  LEAD_VIB_DEPTH := P.NUMFMT.watch P.LEAD_VIB_DEPTH
  LEAD_DETUNE := P.NUMFMT.watch P.LEAD_DETUNE
  LEAD_DUTY1 := P.NUMFMT.watch P.LEAD_DUTY1
  LEAD_DUTY2 := P.NUMFMT.watch P.LEAD_DUTY2
  LEAD_GAIN := P.NUMFMT.watch P.LEAD_GAIN
  BASS_GAIN := P.NUMFMT.watch P.BASS_GAIN
  LEAD_PITCH_LEN := P.LEAD_PITCH_LEN
  BASS_ROOT_LEN := P.BASS_ROOT_LEN
  LEAD_TRIG := P.LEAD_TRIG
  LEAD_PITCH := P.LEAD_PITCH
  BASS_ROOT := P.BASS_ROOT
  LEAD_LFO_HZ := P.NUMFMT.watch P.LEAD_LFO_HZ
  BASS_LFO_HZ := P.NUMFMT.watch P.BASS_LFO_HZ
  BASS_PW_OFFSET := P.NUMFMT.watch P.BASS_PW_OFFSET
  BASS_PW_DEPTH := P.NUMFMT.watch P.BASS_PW_DEPTH
  BASS_SUB_DUTY := P.NUMFMT.watch P.BASS_SUB_DUTY

/-- The unspecified values on watched numbers. -/
def FreeValues.watched {ν : Type} (F : NumFmt ν) (V : FreeValues ν) : FreeValues (Watched ν) where
  rate k := F.watch (V.rate k)
  period k := F.watch (V.period k)
  spq := V.spq
  dtime := V.dtime
  negativeDelay := V.negativeDelay

/-- Every number of the block is marked finite. -/
def Machine.Block.allFinite {ν : Type} (b : Machine.Block (Watched ν)) : Bool :=
  b.RATE.finite && b.T.finite && b.L_EACC.finite && b.L_ESM.finite && b.L_LFO.finite && b.L_PH1.finite
    && b.L_PH2.finite && b.B_ENV.finite && b.B_LFO.finite && b.B_PH1.finite && b.B_PH2.finite
    && b.DBUF.all fun c => c.2.finite

end Sys2Proof
end

