-- ==== Sys2Proof/Safety.lean ====
section
/-! DEFINITION. The terms in which claims are stated: the invariant of the index registers and the buffer, the named
properties of a number format (00_scope.md R14), what a unit operation may write (70_reset_and_hazards.md R203), and
runs of ticks, of delay steps and of scripts. -/

namespace Sys2Proof.Machine

variable {ν : Type}

/-! ## The bounded-index invariant -/

/-- Every index register lies below its modulus, the quantum counters below `SPQ >= 1`, the delay time below the
capacity (10_state.md R26, R27, R31 to R33, R40 to R42, R45; 20_memory.md R51), and the buffer is in canonical form
with no cell outside its space. -/
structure Block.InRange [DecidableEq ν] (P : Params ν) (b : Block ν) : Prop where
  spq : 1 ≤ b.SPQ
  dtime : b.DTIME < P.DELAY_CAP
  l_q : b.L_Q < b.SPQ
  l_step : b.L_STEP < P.LEAD_STEPS
  l_pidx : b.L_PIDX < P.LEAD_PITCH_LEN
  b_q : b.B_Q < b.SPQ
  b_step : b.B_STEP < P.BASS_STEPS
  b_ridx : b.B_RIDX < P.BASS_ROOT_LEN
  d_wcur : b.D_WCUR < P.DELAY_CAP
  memory : Memory.wf P.NUMFMT.zero b.DBUF = true
  below : b.DBUF.below P.DELAY_CAP = true

/-- The machine's state meets the invariant of its block. -/
def State.InRange (s : State) : Prop := s.block.InRange params

/-- R49's table: every register of 10_state.md sections 3 to 5 holds its reset value, and every cell of DBUF 0. -/
structure Block.AtReset (F : NumFmt ν) (b : Block ν) : Prop where
  l_q : b.L_Q = 0
  l_step : b.L_STEP = 0
  l_pidx : b.L_PIDX = 0
  l_armed : b.L_ARMED = true
  l_gate : b.L_GATE = false
  l_eacc : b.L_EACC = F.ofInt 0
  l_esm : b.L_ESM = F.ofInt 0
  l_lfo : b.L_LFO = F.ofInt 0
  l_ph1 : b.L_PH1 = F.ofInt 0
  l_ph2 : b.L_PH2 = F.ofInt 0
  b_q : b.B_Q = 0
  b_step : b.B_STEP = 0
  b_ridx : b.B_RIDX = 0
  b_env : b.B_ENV = F.ofInt 1
  b_lfo : b.B_LFO = F.ofInt 0
  b_ph1 : b.B_PH1 = F.ofInt 0
  b_ph2 : b.B_PH2 = F.ofInt 0
  d_wcur : b.D_WCUR = 0
  dbuf : ∀ a, b.DBUF.read (F.ofInt 0) a = F.ofInt 0

/-! ## The named properties of a number format (00_scope.md R14) -/

/-- Two numbers are the same number; +0 and -0 are (93_implementation_defined.md U2). -/
abbrev sameNum (F : NumFmt ν) (x y : ν) : Prop := F.eq x y = true

/-- `lo <= x <= hi`. -/
abbrev within (F : NumFmt ν) (x lo hi : ν) : Prop := F.le lo x = true ∧ F.le x hi = true

/-- `wrap1_range`: "for every finite x, 0 <= WRAP1(x) < 1". -/
def Wrap1Range (F : NumFmt ν) : Prop :=
  ∀ x, F.isFinite x = true → F.le F.zero (wrap1 F x) = true ∧ F.lt (wrap1 F x) F.one = true

/-- `cos_range`. -/
def CosRange (F : NumFmt ν) : Prop :=
  (∀ x, within F (F.cos2pi x) (F.ofInt (-1)) F.one) ∧ sameNum F (F.cos2pi F.zero) F.one
    ∧ sameNum F (F.cos2pi (half F)) (F.ofInt (-1)) ∧ sameNum F (F.cos2pi F.one) F.one

/-- `sin_range`. -/
def SinRange (F : NumFmt ν) : Prop :=
  (∀ x, within F (F.sin2pi x) (F.ofInt (-1)) F.one) ∧ sameNum F (F.sin2pi F.zero) F.zero

/-- `exp2_pos`. -/
def Exp2Pos (F : NumFmt ν) : Prop :=
  (∀ x, F.isFinite x = true → F.lt F.zero (F.exp2 x) = true) ∧ sameNum F (F.exp2 F.zero) F.one
    ∧ sameNum F (F.exp2 (F.ofInt (-2))) (decimal F 1 4)

/-- `zero_mul`: "0 x v = 0 (or -0) for finite v", with the zero on either side, as R120 uses it. -/
def ZeroMul (F : NumFmt ν) : Prop :=
  ∀ v, F.isFinite v = true → sameNum F (F.mul F.zero v) F.zero ∧ sameNum F (F.mul v F.zero) F.zero

/-! ## What a unit operation may write (70_reset_and_hazards.md R203) -/

/-- The registers of sections 3 to 5 of 10_state.md, by name. -/
inductive Register where
  | L_Q
  | L_STEP
  | L_PIDX
  | L_ARMED
  | L_GATE
  | L_EACC
  | L_ESM
  | L_LFO
  | L_PH1
  | L_PH2
  | B_Q
  | B_STEP
  | B_RIDX
  | B_ENV
  | B_LFO
  | B_PH1
  | B_PH2
  | D_WCUR
  | DBUF
deriving DecidableEq, Repr

/-- The register under a phase register's name. -/
def PhaseReg.register : PhaseReg → Register
  | .L_LFO => .L_LFO
  | .L_PH1 => .L_PH1
  | .L_PH2 => .L_PH2
  | .B_LFO => .B_LFO
  | .B_PH1 => .B_PH1
  | .B_PH2 => .B_PH2

/-- Register `r` holds the same in both blocks. -/
def Register.agree (r : Register) (a b : Block ν) : Prop :=
  match r with
  | .L_Q => a.L_Q = b.L_Q
  | .L_STEP => a.L_STEP = b.L_STEP
  | .L_PIDX => a.L_PIDX = b.L_PIDX
  | .L_ARMED => a.L_ARMED = b.L_ARMED
  | .L_GATE => a.L_GATE = b.L_GATE
  | .L_EACC => a.L_EACC = b.L_EACC
  | .L_ESM => a.L_ESM = b.L_ESM
  | .L_LFO => a.L_LFO = b.L_LFO
  | .L_PH1 => a.L_PH1 = b.L_PH1
  | .L_PH2 => a.L_PH2 = b.L_PH2
  | .B_Q => a.B_Q = b.B_Q
  | .B_STEP => a.B_STEP = b.B_STEP
  | .B_RIDX => a.B_RIDX = b.B_RIDX
  | .B_ENV => a.B_ENV = b.B_ENV
  | .B_LFO => a.B_LFO = b.B_LFO
  | .B_PH1 => a.B_PH1 = b.B_PH1
  | .B_PH2 => a.B_PH2 = b.B_PH2
  | .D_WCUR => a.D_WCUR = b.D_WCUR
  | .DBUF => a.DBUF = b.DBUF

/-- The control registers hold the same in both blocks. -/
def sameControl (a b : Block ν) : Prop :=
  a.RATE = b.RATE ∧ a.T = b.T ∧ a.SPQ = b.SPQ ∧ a.DTIME = b.DTIME ∧ a.MODE = b.MODE ∧ a.CAUSE = b.CAUSE

/-- The Lead registers hold the same in both blocks. -/
def sameLead (a b : Block ν) : Prop :=
  a.L_Q = b.L_Q ∧ a.L_STEP = b.L_STEP ∧ a.L_PIDX = b.L_PIDX ∧ a.L_ARMED = b.L_ARMED ∧ a.L_GATE = b.L_GATE
    ∧ a.L_EACC = b.L_EACC ∧ a.L_ESM = b.L_ESM ∧ a.L_LFO = b.L_LFO ∧ a.L_PH1 = b.L_PH1 ∧ a.L_PH2 = b.L_PH2

/-- The Bass registers hold the same in both blocks. -/
def sameBass (a b : Block ν) : Prop :=
  a.B_Q = b.B_Q ∧ a.B_STEP = b.B_STEP ∧ a.B_RIDX = b.B_RIDX ∧ a.B_ENV = b.B_ENV ∧ a.B_LFO = b.B_LFO
    ∧ a.B_PH1 = b.B_PH1 ∧ a.B_PH2 = b.B_PH2

/-- The delay registers hold the same in both blocks, the buffer among them. -/
def sameDelay (a b : Block ν) : Prop := a.D_WCUR = b.D_WCUR ∧ a.DBUF = b.DBUF

/-- The "State written" line of each unit operation's rule, by its identifier. -/
def unitWrites : UnitCall ν → List Register
  | .wrap1 _ | .clamp _ _ _ | .pdsaw _ _ | .pwm _ _ | .tri _ | .smooth _ _ => []
  | .note2f _ | .phinc _ | .mix _ _ _ => []
  | .phadv reg _ => [reg.register]
  | .seql => [.L_Q, .L_STEP, .L_PIDX, .L_ARMED, .L_GATE]
  | .seqb => [.B_Q, .B_STEP, .B_RIDX]
  | .envl _ _ => [.L_EACC, .L_ESM]
  | .envb _ => [.B_ENV]
  | .lead => [.L_Q, .L_STEP, .L_PIDX, .L_ARMED, .L_GATE, .L_EACC, .L_ESM, .L_LFO, .L_PH1, .L_PH2]
  | .bass => [.B_Q, .B_STEP, .B_RIDX, .B_ENV, .B_LFO, .B_PH1, .B_PH2]
  | .dly _ => [.D_WCUR, .DBUF]

/-! ## Runs -/

/-- `n` SEQL operations one after another: the block after them. -/
def seqlRun (P : Params ν) : Nat → Block ν → Except Fault (Block ν)
  | 0, b => .ok b
  | n + 1, b =>
    match seql P b with
    | .ok (b1, _) => seqlRun P n b1
    | .error f => .error f

/-- `n` SEQB operations one after another: the block after them. -/
def seqbRun (P : Params ν) : Nat → Block ν → Except Fault (Block ν)
  | 0, b => .ok b
  | n + 1, b =>
    match seqb P b with
    | .ok (b1, _) => seqbRun P n b1
    | .error f => .error f

/-- `n` ENVB operations without a restrike: the block after them. -/
def envbRun (P : Params ν) : Nat → Block ν → Block ν
  | 0, b => b
  | n + 1, b => envbRun P n (envb P false b).1

/-- `n` ENVL operations without a restrike: the block after them. -/
def envlRun (P : Params ν) : Nat → Block ν → Block ν
  | 0, b => b
  | n + 1, b => envlRun P n (envl P false true b).1

/-- `n` applications of the smoother to a constant input (40_waveform_primitives.md R95). -/
def smoothRun (P : Params ν) (input : ν) : Nat → ν → ν
  | 0, s => s
  | n + 1, s => smoothRun P input n (smooth P s input)

/-- The delay run on a list of inputs: the outputs, one per input, and the block after them. -/
def dlyRun [DecidableEq ν] (P : Params ν) : List ν → Block ν → Except Fault (List ν × Block ν)
  | [], b => .ok ([], b)
  | x :: xs, b =>
    match dly P x b with
    | .ok (b1, y) =>
      match dlyRun P xs b1 with
      | .ok (ys, b2) => .ok (y :: ys, b2)
      | .error f => .error f
    | .error f => .error f

/-- `n` TICKs one after another: the samples of those that produced one, in order, and the block after them (R159). -/
def tickRun [DecidableEq ν] (P : Params ν) : Nat → Block ν → Except Fault (List ν × Block ν)
  | 0, b => .ok ([], b)
  | n + 1, b =>
    match tick P b with
    | .ok (b1, out) =>
      match tickRun P n b1 with
      | .ok (ys, b2) => .ok (out.toList ++ ys, b2)
      | .error f => .error f
    | .error f => .error f

/-- The result of the first `n` pending transactions, or of all of them if fewer are pending (46_mixer_and_commands.md
R159): the valid samples in order, and the final state with its mode and cause. -/
def scriptRun : Nat → State → Host.Outcome (List NumCode × State) Fault Refusal
  | 0, s => .next ([], s)
  | n + 1, s =>
    match s.pending, step s with
    | [], _ => .next ([], s)
    | _ :: _, .fault f => .fault f
    | _ :: _, .refused r => .refused r
    | _ :: _, .next s1 =>
      match scriptRun n s1 with
      | .next (ys, s2) => .next (s1.sample.toList ++ ys, s2)
      | .fault f => .fault f
      | .refused r => .refused r

/-! ## The property `finite_closed` (00_scope.md R14) -/

/-- `finite_closed`: "the operations used in a tick give finite results on the value ranges a tick produces". The values
are those of the runs the block can have: `n` TICKs after an INIT that succeeded. Every operation of such a run, on the
numbers that stood there, gave a finite result: each tick mixed a finite sample, and every mark is finite. That these
runs are the ranges the rule means is the model's reading (log 8). -/
def FiniteClosed [DecidableEq ν] (P : Params ν) : Prop :=
  ∀ (V : FreeValues ν) (rate : ν) (n : Nat) (ys : List (Watched ν)) (b : Block (Watched ν)),
    initCheck P rate = .none →
    tickRun P.watched n
        (init P.watched (V.watched P.NUMFMT) (P.NUMFMT.watch rate) (powerOn P.watched.NUMFMT)) = .ok (ys, b) →
    ys.length = n ∧ ys.all (fun y => y.finite) = true ∧ b.allFinite = true

end Sys2Proof.Machine
end

