-- ==== Sys2Proof/Reference.lean ====
section
/-! DEFINITION. The reference instance of NUMFMT (00_scope.md R13): exact real arithmetic. The machine does not import
this file; claims about the reference instance are stated in its terms, with the bounds they keep. -/

namespace Sys2Proof.Reference

/-- R13's reference instance: exact real arithmetic, `cos2pi(x) = cos(2 pi x)`, `sin2pi(x) = sin(2 pi x)`,
`exp2(x) = 2^x`, `isFinite` always true. -/
noncomputable def numfmt : NumFmt ℝ where
  add x y := x + y
  sub x y := x - y
  mul x y := x * y
  div x y := x / y
  neg x := -x
  abs x := |x|
  min x y := min x y
  max x y := max x y
  floor x := ⌊x⌋
  ofInt n := (n : ℝ)
  lt x y := decide (x < y)
  le x y := decide (x ≤ y)
  eq x y := decide (x = y)
  isFinite _ := true
  cos2pi x := Real.cos (2 * Real.pi * x)
  sin2pi x := Real.sin (2 * Real.pi * x)
  exp2 x := (2 : ℝ) ^ x

/-- The default parameters of 00_scope.md tables 4a and 4b in the reference instance, for any open parameters. -/
noncomputable def params (o : OpenParams ℝ) : Params ℝ := Machine.defaultParams numfmt o

end Sys2Proof.Reference

namespace Sys2Proof.Machine

/-- A running block within the bounds of the reference instance with the default gains and feedback: its indexes in
range, the smoothed Lead envelope in [0,1] (43_envelope.md R120), the Bass envelope at `1 - B_Q / SPQ` within a quantum
(R121), and no cell of the buffer above `0.3 / (1 - FB)` in size (46_mixer_and_commands.md R157). -/
structure Block.Bounded (P : Params ℝ) (b : Block ℝ) : Prop where
  inRange : b.InRange P
  running : b.MODE = .running
  l_esm_nonneg : 0 ≤ b.L_ESM
  l_esm_le_one : b.L_ESM ≤ 1
  b_env : b.B_Q ≠ 0 → b.B_ENV = 1 - (b.B_Q : ℝ) / (b.SPQ : ℝ)
  cells : ∀ a, |b.DBUF.read 0 a| ≤ 0.3 / (1 - 0.35)

end Sys2Proof.Machine
end

