-- ==== Sys2Proof/Certificates/Slice0/Obligations.lean ====
section
/-! DEFINITION. The statements about the model, for the provers. Each docstring names the rules of the spec it
formalises; a clause that rests on a choice of the model names its log entry. -/

open Sys2Proof Sys2Proof.Machine

/-! ## Encoding and the step -/

/-- R76: the complete identifier map; every other word is the identifier of nothing. -/
def Obligations.IdentifierMap : Prop :=
  decode 0x00 = .ok .nop ∧ decode 0x01 = .ok .reset ∧ decode 0x02 = .ok .init ∧ decode 0x03 = .ok .tick
    ∧ decode 0x10 = .ok .wrap1 ∧ decode 0x11 = .ok .clamp ∧ decode 0x12 = .ok .pdsaw ∧ decode 0x13 = .ok .pwm
    ∧ decode 0x14 = .ok .tri ∧ decode 0x15 = .ok .smooth ∧ decode 0x20 = .ok .phadv ∧ decode 0x21 = .ok .note2f
    ∧ decode 0x22 = .ok .phinc ∧ decode 0x30 = .ok .seql ∧ decode 0x31 = .ok .seqb ∧ decode 0x40 = .ok .envl
    ∧ decode 0x41 = .ok .envb ∧ decode 0x50 = .ok .lead ∧ decode 0x51 = .ok .bass ∧ decode 0x60 = .ok .dly
    ∧ decode 0x70 = .ok .mix
    ∧ ∀ w i, decode w = .ok i →
        w ∈ ([0x00, 0x01, 0x02, 0x03, 0x10, 0x11, 0x12, 0x13, 0x14, 0x15, 0x20, 0x21, 0x22, 0x30, 0x31, 0x40, 0x41,
          0x50, 0x51, 0x60, 0x70] : List Opid)

/-- R75, R76: decoding an encoded identifier gives it back, and every word that decodes is the encoding of what it
decodes to; the table's own numbering of the word agrees. -/
def Obligations.DecodeEncodeAgree : Prop :=
  (∀ i : Instr, i.wf = true → decode (encode i) = .ok i ∧ decodeTableWord 8 (encode i).toNat = some i)
    ∧ ∀ w i, decode w = .ok i → encode i = w

/-- R71, R188 (idle), R76: a step performs the command of the next transaction, with its value on the `rate` port;
with nothing presented nothing changes and the outputs hold. That the host's transactions stand in the list
`pending` is the model's form of the ports (log 7). -/
def Obligations.StepPerformsNextCommand : Prop :=
  (∀ (s : State) (t : Transaction NumCode) (rest : List (Transaction NumCode)) (i : Instr),
      s.pending = t :: rest → decode t.cmd = .ok i →
      step s = exec i { s with ratePort := t.rate, pending := rest })
    ∧ (∀ s : State, s.pending = [] → step s = .next s)
    ∧ ∀ (s : State) (i : Instr), step (s.withFetchWord 8 (encode i).toNat) = exec i s

/-- R78: a word other than 0x00 to 0x03 decodes to `illegal` and performs `raise Fault(ILL_CMD)` and nothing else;
the four others decode to the four commands. -/
def Obligations.IllegalCommandFaults : Prop :=
  decodeCommand 0x00 = .nop ∧ decodeCommand 0x01 = .reset ∧ decodeCommand 0x02 = .init ∧ decodeCommand 0x03 = .tick
    ∧ ∀ (s : State) (t : Transaction NumCode) (rest : List (Transaction NumCode)),
        s.pending = t :: rest → t.cmd ≠ 0x00 → t.cmd ≠ 0x01 → t.cmd ≠ 0x02 → t.cmd ≠ 0x03 →
        decodeCommand t.cmd = .illegal
          ∧ step s = .next { s with
              ratePort := t.rate, pending := rest, sample := none
              block := { s.block with
                CAUSE := if s.block.MODE = .failed then s.block.CAUSE else .illCmd
                MODE := .failed } }

/-- R78 for the unit identifiers of R76: on the `cmd` port each of the 17 is an illegal command; nothing but CAUSE,
MODE and the outputs changes. -/
def Obligations.UnitIdentifiersAreIllegalCommands : Prop :=
  ∀ i ∈ [Instr.wrap1, .clamp, .pdsaw, .pwm, .tri, .smooth, .phadv, .note2f, .phinc, .seql, .seqb, .envl, .envb,
      .lead, .bass, .dly, .mix],
    ∀ s : State, exec i s = .next { s with
      sample := none
      block := { s.block with
        CAUSE := if s.block.MODE = .failed then s.block.CAUSE else .illCmd
        MODE := .failed } }

/-- R80, R81: the command words of a script's lines, with what stands on the `rate` port beside each; the lines of a
script follow one another; the pseudo-commands are their expansions. What stands on `rate` beside a line that gives
none is `idle`: every command but INIT ignores it (R73). -/
def Obligations.PseudoCommandsExpand : Prop :=
  ∀ (ν : Type) (idle : ν),
    ScriptLine.nop.transactions idle = [{ cmd := 0x00, rate := idle }]
      ∧ ScriptLine.reset.transactions idle = [{ cmd := 0x01, rate := idle }]
      ∧ (∀ r, (ScriptLine.init r).transactions idle = [{ cmd := 0x02, rate := r }])
      ∧ ScriptLine.tick.transactions idle = [{ cmd := 0x03, rate := idle }]
      ∧ (∀ w, (ScriptLine.byte w).transactions idle = [{ cmd := w, rate := idle }])
      ∧ scriptTransactions idle [] = []
      ∧ (∀ l ls, scriptTransactions idle (l :: ls) = l.transactions idle ++ scriptTransactions idle ls)
      ∧ (∀ n, (ScriptLine.render n).transactions idle
          = (List.replicate n ScriptLine.tick).flatMap (·.transactions idle))
      ∧ (∀ r, (ScriptLine.start r).transactions idle = scriptTransactions idle [.reset, .init r])
      ∧ ∀ r, (ScriptLine.reinit r).transactions idle = (ScriptLine.init r).transactions idle

/-! ## Faults, modes and outputs -/

/-- R172: the fault entry sequence. -/
def Obligations.FaultEntrySequence : Prop :=
  ∀ (s : State) (c : Cause),
    (s.raise c).block.CAUSE = (if s.block.MODE ≠ .failed then c else s.block.CAUSE)
      ∧ (s.raise c).block.MODE = .failed ∧ (s.raise c).sampleValid = false
      ∧ (∀ r : Register, r.agree (s.raise c).block s.block)
      ∧ (s.raise c).block.RATE = s.block.RATE ∧ (s.raise c).block.T = s.block.T
      ∧ (s.raise c).block.SPQ = s.block.SPQ ∧ (s.raise c).block.DTIME = s.block.DTIME
      ∧ (s.raise c).ratePort = s.ratePort ∧ (s.raise c).pending = s.pending ∧ (s.raise c).freeIndex = s.freeIndex

/-- R28, R171: the values of MODE and CAUSE as the outputs show them. -/
def Obligations.ModeAndCauseValues : Prop :=
  Mode.unconfigured.bits = 0 ∧ Mode.running.bits = 1 ∧ Mode.failed.bits = 2
    ∧ Cause.none.bits = 0 ∧ Cause.cfgRate.bits = 1 ∧ Cause.cfgSpq.bits = 2 ∧ Cause.cfgDelay.bits = 3
    ∧ Cause.tickUnconf.bits = 4 ∧ Cause.illCmd.bits = 5 ∧ Cause.nonfinite.bits = 6
    ∧ (∀ s : State, s.modePort = s.block.MODE.bits ∧ s.causePort = s.block.CAUSE.bits)

/-- R173: FAILED is sticky. Every word but RESET's leaves the block as it is; RESET returns to UNCONFIGURED with
CAUSE 0. -/
def Obligations.FailedIsSticky : Prop :=
  ∀ (s : State) (t : Transaction NumCode) (rest : List (Transaction NumCode)),
    s.pending = t :: rest → s.block.MODE = .failed →
    (t.cmd ≠ 0x01 → step s = .next { s with ratePort := t.rate, pending := rest, sample := none })
      ∧ (t.cmd = 0x01 → ∃ u, step s = .next u ∧ u.block.MODE = .unconfigured ∧ u.block.CAUSE = .none
          ∧ u.sample = none)

/-- R180: which command in which mode leads to RUNNING and to UNCONFIGURED; everything else leads to FAILED. -/
def Obligations.LifecycleModes : Prop :=
  ∀ (s u : State) (t : Transaction NumCode) (rest : List (Transaction NumCode)),
    s.pending = t :: rest → step s = .next u →
    (u.block.MODE = .running ↔
        (t.cmd = 0x02 ∧ s.block.MODE ≠ .failed ∧ initCheck params t.rate = .none)
          ∨ (s.block.MODE = .running ∧ (t.cmd = 0x00 ∨ (t.cmd = 0x03 ∧ u.sample.isSome = true))))
      ∧ (u.block.MODE = .unconfigured ↔ t.cmd = 0x01 ∨ (s.block.MODE = .unconfigured ∧ t.cmd = 0x00))

/-- R74: `sample_valid` is 1 exactly when the command just performed was a TICK that produced a sample. -/
def Obligations.SampleValidExactlyAfterTick : Prop :=
  ∀ (s u : State) (t : Transaction NumCode) (rest : List (Transaction NumCode)),
    s.pending = t :: rest → step s = .next u →
    (u.sampleValid = true ↔ t.cmd = 0x03 ∧ s.block.MODE = .running ∧ u.block.MODE = .running)

/-- R178: a fault other than NONFINITE happens before its command has written anything. -/
def Obligations.FaultsArePrecise : Prop :=
  ∀ (s u : State) (t : Transaction NumCode) (rest : List (Transaction NumCode)),
    s.pending = t :: rest → step s = .next u → s.block.MODE ≠ .failed → u.block.MODE = .failed →
    (u.block.CAUSE ≠ .nonfinite → u.block = { s.block with MODE := .failed, CAUSE := u.block.CAUSE })
      ∧ (u.block.CAUSE = .nonfinite → t.cmd = 0x03 ∧ s.block.MODE = .running)

/-- R24 to R27: `RATE`, `T`, `SPQ` and `DTIME` are written by INIT alone (and become unspecified by RESET). -/
def Obligations.DerivedRegistersWrittenByInit : Prop :=
  ∀ (s u : State) (t : Transaction NumCode) (rest : List (Transaction NumCode)),
    s.pending = t :: rest → step s = .next u → t.cmd ≠ 0x01 →
    (t.cmd ≠ 0x02 ∨ u.block.MODE ≠ .running) →
    u.block.RATE = s.block.RATE ∧ u.block.T = s.block.T ∧ u.block.SPQ = s.block.SPQ ∧ u.block.DTIME = s.block.DTIME

/-- R35: the Lead gate, once true, is cleared by nothing but RESET and a successful INIT. -/
def Obligations.GateIsNeverCleared : Prop :=
  ∀ (s u : State) (t : Transaction NumCode) (rest : List (Transaction NumCode)),
    s.pending = t :: rest → step s = .next u → s.block.L_GATE = true → u.block.L_GATE = false →
    t.cmd = 0x01 ∨ (t.cmd = 0x02 ∧ u.block.MODE = .running)

/-! ## The host commands -/

/-- R150: NOP changes nothing but `sample_valid`, and a NOP before a command changes nothing of what it does. -/
def Obligations.NopChangesNothing : Prop :=
  ∀ s : State, exec .nop s = .next { s with sample := none }
    ∧ ∀ (i : Instr) (s1 : State), exec .nop s = .next s1 → exec i s1 = exec i s

/-- R151: RESET gives UNCONFIGURED, no cause and R49's values, in every mode; but for the four unspecified registers
this is the state of power-on. -/
def Obligations.ResetCommand : Prop :=
  ∀ s : State, ∃ t : State, exec .reset s = .next t
    ∧ t.block.MODE = .unconfigured ∧ t.block.CAUSE = .none ∧ t.block.AtReset Config.numfmt
    ∧ t.sampleValid = false
    ∧ { t.block with RATE := State.reset.block.RATE, T := State.reset.block.T, SPQ := State.reset.block.SPQ,
                     DTIME := State.reset.block.DTIME } = State.reset.block
    ∧ t.ratePort = s.ratePort ∧ t.pending = s.pending

/-- R190, R49: the state at power-on. -/
def Obligations.PowerOnState : Prop :=
  State.reset.block.MODE = .unconfigured ∧ State.reset.block.CAUSE = .none
    ∧ State.reset.block.AtReset Config.numfmt ∧ State.reset.sampleValid = false

/-- R153, every path: INIT is refused without effect in FAILED; its three checks are made in order and the first that
fails is the cause, with nothing but MODE and CAUSE written; else the four derived registers are latched, every other
register is at R49's value, and the block runs. The command always completes, with no valid sample. -/
def Obligations.InitCommand : Prop :=
  (∀ s : State, exec .init s = .next { s with block := init params free s.ratePort s.block, sample := none })
    ∧ ∀ (ν : Type) (P : Params ν) (V : FreeValues ν) (rate : ν) (b : Block ν),
      let F := P.NUMFMT
      let qn := F.div rate (F.ofInt P.CLOCK)
      let spq := F.floor qn
      let dt := F.floor (F.mul qn P.DELAY_FACTOR)
      let positive := F.isFinite rate = true ∧ F.lt (F.ofInt 0) rate = true
      (b.MODE = .failed → init P V rate b = b)
        ∧ (b.MODE ≠ .failed → ¬ positive → init P V rate b = { b with MODE := .failed, CAUSE := .cfgRate })
        ∧ (b.MODE ≠ .failed → positive → spq < 1 →
            init P V rate b = { b with MODE := .failed, CAUSE := .cfgSpq })
        ∧ (b.MODE ≠ .failed → positive → 1 ≤ spq → (P.DELAY_CAP : Int) ≤ dt →
            init P V rate b = { b with MODE := .failed, CAUSE := .cfgDelay })
        ∧ (b.MODE ≠ .failed → positive → 1 ≤ spq → dt < (P.DELAY_CAP : Int) →
            (init P V rate b).RATE = rate ∧ (init P V rate b).T = F.div (F.ofInt 1) rate
              ∧ ((init P V rate b).SPQ : Int) = spq ∧ (0 ≤ dt → ((init P V rate b).DTIME : Int) = dt)
              ∧ (init P V rate b).AtReset F
              ∧ (init P V rate b).MODE = .running ∧ (init P V rate b).CAUSE = .none)

/-- R154: the state after a successful INIT depends on `rate` and `P` alone, and so does every run of TICKs from it. -/
def Obligations.InitForgetsHistory : Prop :=
  ∀ (ν : Type) [DecidableEq ν] (P : Params ν) (V : FreeValues ν) (rate : ν) (b1 b2 : Block ν),
    b1.MODE ≠ .failed → b2.MODE ≠ .failed → initCheck P rate = .none →
    init P V rate b1 = init P V rate b2
      ∧ ∀ n, tickRun P n (init P V rate b1) = tickRun P n (init P V rate b2)

/-- R155: the sample rates INIT accepts, in the reference instance, for any parameters with `CLOCK >= 1`, and the
spec's figures for the defaults. -/
def Obligations.SupportedRates : Prop :=
  (∀ (P : Params ℝ) (V : FreeValues ℝ) (rate : ℝ) (b : Block ℝ),
      P.NUMFMT = Reference.numfmt → 1 ≤ P.CLOCK → b.MODE ≠ .failed →
      ((init P V rate b).MODE = .running ↔
        (P.CLOCK : ℝ) ≤ rate ∧ rate / (P.CLOCK : ℝ) * P.DELAY_FACTOR < (P.DELAY_CAP : ℝ)))
    ∧ ∀ (o : OpenParams ℝ) (V : FreeValues ℝ) (b : Block ℝ), b.MODE ≠ .failed →
      let after (rate : ℝ) : Block ℝ := init (Reference.params o) V rate b
      (∀ rate, (after rate).MODE = .running ↔ 9 ≤ rate ∧ rate / 9 * 3.98 < 44100)
        ∧ (∀ rate, (after rate).MODE = .running → (after rate).SPQ ≤ 11080)
        ∧ (after 44100).DTIME = 19502 ∧ (after 48000).DTIME = 21226 ∧ (after 88200).DTIME = 39004
        ∧ (after 96000).DTIME = 42453 ∧ (after 99723).DTIME = 44099
        ∧ (after 44100).MODE = .running ∧ (after 48000).MODE = .running ∧ (after 88200).MODE = .running
        ∧ (after 96000).MODE = .running ∧ (after 99723).MODE = .running
        ∧ (after 99724).CAUSE = .cfgDelay ∧ (after 176400).CAUSE = .cfgDelay ∧ (after 192000).CAUSE = .cfgDelay

/-- R152: TICK faults in UNCONFIGURED, is refused in FAILED, and in RUNNING performs the fixed schedule BASS, LEAD, DLY
on this tick's Lead sample, MIX; a non-finite mixed sample is the fault NONFINITE with the schedule's writes kept. -/
def Obligations.TickCommand : Prop :=
  ∀ s : State,
    (s.block.MODE = .unconfigured → exec .tick s = .next { s with
        sample := none, block := { s.block with MODE := .failed, CAUSE := .tickUnconf } })
      ∧ (s.block.MODE = .failed → exec .tick s = .next { s with sample := none })
      ∧ (s.block.MODE = .running → ∀ (b1 b2 b3 : Block NumCode) (xb xl xd : NumCode),
          bass params s.block = .ok (b1, xb) → lead params b1 = .ok (b2, xl) → dly params xl b2 = .ok (b3, xd) →
          let out := Config.numfmt.add (Config.numfmt.add xb xl) xd
          exec .tick s = .next (if Config.numfmt.isFinite out = true then { s with block := b3, sample := some out }
            else { s with block := { b3 with MODE := .failed, CAUSE := .nonfinite }, sample := none }))

/-- R152, R51: in RUNNING, with the indexes in range, every slot of the schedule completes and so does the TICK. -/
def Obligations.TickCompletes : Prop :=
  ∀ s : State, s.block.MODE = .running → s.InRange →
    ∃ (b1 b2 b3 : Block NumCode) (xb xl xd : NumCode) (t : State),
      bass params s.block = .ok (b1, xb) ∧ lead params b1 = .ok (b2, xl) ∧ dly params xl b2 = .ok (b3, xd)
        ∧ exec .tick s = .next t
        ∧ ((t.block = b3 ∧ t.sample = some (mix Config.numfmt xb xl xd) ∧ t.block.MODE = .running)
          ∨ (t.block.MODE = .failed ∧ t.block.CAUSE = .nonfinite ∧ t.sample = none))

/-- R152, R203, R140: what a TICK in RUNNING leaves unchanged: the derived registers, MODE and CAUSE unless it faults,
every cell of DBUF but the one at the cursor, the input port and what the host has still to present. -/
def Obligations.TickFrame : Prop :=
  ∀ s t : State, s.block.MODE = .running → exec .tick s = .next t →
    t.block.RATE = s.block.RATE ∧ t.block.T = s.block.T ∧ t.block.SPQ = s.block.SPQ ∧ t.block.DTIME = s.block.DTIME
      ∧ ((t.block.MODE = .running ∧ t.block.CAUSE = s.block.CAUSE)
          ∨ (t.block.MODE = .failed ∧ t.block.CAUSE = .nonfinite))
      ∧ (Memory.wf params.NUMFMT.zero s.block.DBUF = true →
          ∀ a, a ≠ s.block.D_WCUR →
            t.block.DBUF.read params.NUMFMT.zero a = s.block.DBUF.read params.NUMFMT.zero a)
      ∧ t.ratePort = s.ratePort ∧ t.pending = s.pending ∧ t.freeIndex = s.freeIndex

/-- R51: outside the states that meet the invariant an access is stuck and never answered. In the order of a TICK's
accesses: BASS_ROOT, LEAD_TRIG on a boundary, LEAD_PITCH where the pitch index is read as it stands (a restrike wraps
it first), and the write of DBUF at the cursor. The indexes of ARP and of the delay tap are remainders and cannot be out
of range (R65). That a broken index stops the machine is the model's choice among those R51 offers (log 9). -/
def Obligations.OutOfRangeReadIsStuck : Prop :=
  ∀ s : State, s.block.MODE = .running →
    (8 ≤ s.block.B_RIDX → exec .tick s = .fault (.outOfRange .BASS_ROOT s.block.B_RIDX))
      ∧ (s.block.B_RIDX < 8 → s.block.L_Q = 0 → 256 ≤ s.block.L_STEP →
          exec .tick s = .fault (.outOfRange .LEAD_TRIG s.block.L_STEP))
      ∧ (s.block.B_RIDX < 8 → s.block.L_Q ≠ 0 → 15 ≤ s.block.L_PIDX →
          exec .tick s = .fault (.outOfRange .LEAD_PITCH s.block.L_PIDX))
      ∧ (s.block.B_RIDX < 8 → s.block.L_Q = 0 → s.block.L_STEP < 256 → 15 ≤ s.block.L_PIDX →
          s.block.L_ARMED = false ∨ params.LEAD_TRIG[s.block.L_STEP]? = some 0 →
          exec .tick s = .fault (.outOfRange .LEAD_PITCH s.block.L_PIDX))
      ∧ (s.block.B_RIDX < 8 → s.block.L_STEP < 256 → s.block.L_PIDX < 15 → 44100 ≤ s.block.D_WCUR →
          exec .tick s = .fault (.outOfRange .DBUF s.block.D_WCUR))

/-! ## Waveform primitives and the smoother -/

/-- R90: WRAP1, its formula in any number format, and in the reference instance its range and corner cases. That the
floor is an integer, used as a number through `ofInt`, is the model's reading (log 3). -/
def Obligations.WrapsIntoUnitInterval : Prop :=
  (∀ (ν : Type) (F : NumFmt ν) (x : ν), wrap1 F x = F.sub x (F.ofInt (F.floor x)))
    ∧ (∀ x : ℝ, 0 ≤ wrap1 Reference.numfmt x ∧ wrap1 Reference.numfmt x < 1
        ∧ ∃ n : ℤ, x = wrap1 Reference.numfmt x + (n : ℝ))
    ∧ wrap1 Reference.numfmt 0 = 0 ∧ wrap1 Reference.numfmt 1 = 0 ∧ wrap1 Reference.numfmt 1.25 = 0.25
    ∧ wrap1 Reference.numfmt 2.5 = 0.5 ∧ wrap1 Reference.numfmt (-0.25) = 0.75 ∧ wrap1 Reference.numfmt (-1) = 0

/-- R91: CLAMP, its formula in any number format, and in the reference instance the closed interval. -/
def Obligations.ClampsToClosedInterval : Prop :=
  (∀ (ν : Type) (F : NumFmt ν) (x lo hi : ν), clamp F x lo hi = F.min (F.max x lo) hi)
    ∧ ∀ x lo hi : ℝ, lo ≤ hi →
      lo ≤ clamp Reference.numfmt x lo hi ∧ clamp Reference.numfmt x lo hi ≤ hi
        ∧ (x ≤ lo → clamp Reference.numfmt x lo hi = lo) ∧ (hi ≤ x → clamp Reference.numfmt x lo hi = hi)
        ∧ (lo ≤ x → x ≤ hi → clamp Reference.numfmt x lo hi = x)

/-- R92: PDSAW, its formula in any number format, evaluated in the order written (R13), and its range and corner cases
in the reference instance, for any well-formed parameters. The equations of the two segments are the spec's own supply
(its decision D13, log 15); that its 0.5 is the quotient of 1 and 2 is the model's reading (log 2). -/
def Obligations.PhaseDistortionSawtooth : Prop :=
  (∀ (ν : Type) (P : Params ν) (phase duty : ν),
      let F := P.NUMFMT
      let half := F.div (F.ofInt 1) (F.ofInt 2)
      let d := F.min (F.max duty P.PD_LO) P.PD_HI
      pdsaw P phase duty = F.neg (F.cos2pi (if F.lt phase d = true then F.div (F.mul phase half) d
        else F.add half (F.div (F.mul (F.sub phase d) half) (F.sub (F.ofInt 1) d)))))
    ∧ ∀ P : Params ℝ, P.NUMFMT = Reference.numfmt → P.wf = true → ∀ phase duty : ℝ,
      let d := min (max duty P.PD_LO) P.PD_HI
      let pd := if phase < d then phase * 0.5 / d else 0.5 + (phase - d) * 0.5 / (1 - d)
      pdsaw P phase duty = -Real.cos (2 * Real.pi * pd)
        ∧ -1 ≤ pdsaw P phase duty ∧ pdsaw P phase duty ≤ 1
        ∧ d ≠ 0 ∧ 1 - d ≠ 0
        ∧ pdsaw P 0 duty = -1 ∧ pdsaw P d duty = 1 ∧ pdsaw P 1 duty = -1
        ∧ (P.PD_HI ≤ duty → pdsaw P phase duty = pdsaw P phase P.PD_HI)
        ∧ (duty ≤ P.PD_LO → pdsaw P phase duty = pdsaw P phase P.PD_LO)
        ∧ (d = 0.5 → pdsaw P phase duty = -Real.cos (2 * Real.pi * phase))

/-- R93: PWM, its formula in any number format, evaluated in the order written (R13), and in the reference instance its
closed form: -1 before `1 - w` and +1 from there on, with the width clamped. -/
def Obligations.PulseWidthWave : Prop :=
  (∀ (ν : Type) (P : Params ν) (phase width : ν),
      let F := P.NUMFMT
      let w := F.min (F.max width P.PW_LO) P.PW_HI
      pwm P phase width
        = F.sub (F.mul (F.add (F.sub phase (wrap1 F (F.add phase w))) w) (F.ofInt 2)) (F.ofInt 1))
    ∧ ∀ P : Params ℝ, P.NUMFMT = Reference.numfmt → P.wf = true → ∀ phase width : ℝ, 0 ≤ phase → phase < 1 →
      let w := min (max width P.PW_LO) P.PW_HI
      pwm P phase width = (phase - wrap1 P.NUMFMT (phase + w) + w) * 2 - 1
        ∧ (phase < 1 - w → pwm P phase width = -1) ∧ (1 - w ≤ phase → pwm P phase width = 1)

/-- R94: TRI, its formula in any number format, and in the reference instance its range, its rise to 1 at 0.5, its fall
from there, and its corner cases. -/
def Obligations.TriangleIsUnipolar : Prop :=
  (∀ (ν : Type) (F : NumFmt ν) (phase : ν),
      tri F phase = F.sub (F.ofInt 1) (F.abs (F.sub (F.mul phase (F.ofInt 2)) (F.ofInt 1))))
    ∧ (∀ phase : ℝ, 0 ≤ phase → phase < 1 → 0 ≤ tri Reference.numfmt phase ∧ tri Reference.numfmt phase ≤ 1)
    ∧ (∀ p q : ℝ, p ≤ q → q ≤ 0.5 → tri Reference.numfmt p ≤ tri Reference.numfmt q)
    ∧ (∀ p q : ℝ, 0.5 ≤ p → p ≤ q → tri Reference.numfmt q ≤ tri Reference.numfmt p)
    ∧ tri Reference.numfmt 0 = 0 ∧ tri Reference.numfmt 0.5 = 1 ∧ tri Reference.numfmt 0.25 = 0.5
    ∧ tri Reference.numfmt 0.75 = 0.5 ∧ tri Reference.numfmt 1 = 0

/-- R95: the smoother under a constant input `u`, from state `s0`: `u + (s0 - u) x 0.99^n` after `n` applications, in
the reference instance with the default coefficients; its formula in any number format. -/
def Obligations.SmootherStepResponse : Prop :=
  (∀ (ν : Type) (P : Params ν) (state input : ν),
      smooth P state input = P.NUMFMT.add (P.NUMFMT.mul input P.SM_IN) (P.NUMFMT.mul state P.SM_FB))
    ∧ ∀ (o : OpenParams ℝ) (u s0 : ℝ) (n : Nat), smoothRun (Reference.params o) u n s0 = u + (s0 - u) * 0.99 ^ n

/-! ## The phase family -/

/-- R100: PHADV writes its register with `WRAP1(S.reg + inc)`, answers the value after the advance, writes nothing
else, and keeps the phase in [0,1) in a format with `wrap1_range`, for an increment that makes a finite sum. That the
floor in the wrapped sum is an integer, used as a number through `ofInt`, is the model's reading (log 3). -/
def Obligations.PhaseAdvance : Prop :=
  ∀ (ν : Type) (F : NumFmt ν) (r : PhaseReg) (inc : ν) (b : Block ν),
    let b' := (phadv F r inc b).1
    let v := (phadv F r inc b).2
    v = F.sub (F.add (readPhase b r) inc) (F.ofInt (F.floor (F.add (readPhase b r) inc)))
      ∧ readPhase b' r = v
      ∧ (∀ q : Register, q ≠ r.register → q.agree b' b) ∧ sameControl b' b
      ∧ (Wrap1Range F → F.isFinite (F.add (readPhase b r) inc) = true →
          F.le (F.ofInt 0) v = true ∧ F.lt v (F.ofInt 1) = true)

/-- R101: NOTE2F, its formula in any number format, evaluated in the order written (R13), and in the reference instance
with the default tuning its sign, its octaves and its corner cases. -/
def Obligations.EqualTemperedFrequency : Prop :=
  (∀ (ν : Type) (P : Params ν) (note : ν),
      let F := P.NUMFMT
      note2f P note = F.mul P.A4_HZ (F.exp2 (F.div (F.sub note (F.ofInt P.A4_NOTE)) (F.ofInt P.SEMIS))))
    ∧ ∀ o : OpenParams ℝ,
      (∀ note : ℝ, note2f (Reference.params o) note = 440 * (2 : ℝ) ^ ((note - 69) / 12)
          ∧ 0 < note2f (Reference.params o) note
          ∧ note2f (Reference.params o) (note + 12) = 2 * note2f (Reference.params o) note)
        ∧ note2f (Reference.params o) 69 = 440 ∧ note2f (Reference.params o) 57 = 220
        ∧ note2f (Reference.params o) 45 = 110 ∧ note2f (Reference.params o) 33 = 55
        ∧ note2f (Reference.params o) 81 = 880

/-- R102: PHINC multiplies by the period; after a successful INIT the period is `1 / rate`. -/
def Obligations.IncrementIsFrequencyTimesPeriod : Prop :=
  ∀ (ν : Type) (P : Params ν) (V : FreeValues ν) (rate f : ν) (b : Block ν),
    phinc P.NUMFMT b f = P.NUMFMT.mul f b.T
      ∧ (b.MODE ≠ .failed → initCheck P rate = .none →
          phinc P.NUMFMT (init P V rate b) f = P.NUMFMT.mul f (P.NUMFMT.div (P.NUMFMT.ofInt 1) rate))

/-! ## The sequencers -/

/-- R111: one SEQL, with its indexes in range: what it returns, what it writes, and that it writes nothing else. -/
def Obligations.LeadSequencerStep : Prop :=
  ∀ (ν : Type) (P : Params ν) (b : Block ν), P.wfSizes = true →
    b.L_STEP < P.LEAD_STEPS → b.L_PIDX < P.LEAD_PITCH_LEN →
    ∃ (cell : Bit) (note : Int) (b' : Block ν),
      let struck := b.L_Q = 0 ∧ cell = 1 ∧ b.L_ARMED = true
      let wraps := b.L_Q + 1 = b.SPQ
      P.LEAD_TRIG[b.L_STEP]? = some cell ∧ P.LEAD_PITCH[b'.L_PIDX]? = some note
        ∧ seql P b = .ok (b', { restruck := decide struck, note := note, gate := b.L_GATE })
        ∧ b'.L_PIDX = (if struck then (b.L_PIDX + 1) % P.LEAD_PITCH_LEN else b.L_PIDX)
        ∧ b'.L_ARMED = (if struck then false else if b.L_Q = 0 ∧ cell = 0 then true else b.L_ARMED)
        ∧ b'.L_Q = (if wraps then 0 else b.L_Q + 1)
        ∧ b'.L_STEP = (if wraps then (b.L_STEP + 1) % P.LEAD_STEPS else b.L_STEP)
        ∧ b'.L_GATE = (if wraps ∧ (b.L_STEP + 1) % P.LEAD_STEPS = 0 then true else b.L_GATE)
        ∧ (∀ r : Register, r ∉ [Register.L_Q, .L_STEP, .L_PIDX, .L_ARMED, .L_GATE] → r.agree b' b)
        ∧ sameControl b' b

/-- R110, R111 corner case (e), R35: from the reset values, after `n` Lead sequencer steps the quantum counter reads
`n mod SPQ`, the step index `n / SPQ mod LEAD_STEPS`, and the gate is open exactly when the first pass is complete. -/
def Obligations.LeadGateOpensAfterFirstPass : Prop :=
  ∀ (ν : Type) (P : Params ν) (b : Block ν), P.wfSizes = true → b.AtReset P.NUMFMT → 1 ≤ b.SPQ → ∀ n : Nat,
    ∃ b' : Block ν, seqlRun P n b = .ok b'
      ∧ b'.L_Q = n % b.SPQ ∧ b'.L_STEP = n / b.SPQ % P.LEAD_STEPS
      ∧ (b'.L_GATE = true ↔ P.LEAD_STEPS * b.SPQ ≤ n)

/-- R112: one SEQB, with its indexes in range. -/
def Obligations.BassSequencerStep : Prop :=
  ∀ (ν : Type) (P : Params ν) (b : Block ν), P.wfSizes = true → b.B_RIDX < P.BASS_ROOT_LEN →
    ∃ (arp root : Int) (b' : Block ν),
      let wraps := b.B_Q + 1 = b.SPQ
      P.ARP[b.B_STEP % P.ARP_LEN]? = some arp ∧ P.BASS_ROOT[b.B_RIDX]? = some root
        ∧ seqb P b = .ok (b', { restruck := decide (b.B_Q = 0), note := arp + root + P.BASS_TRANSPOSE })
        ∧ b'.B_Q = (if wraps then 0 else b.B_Q + 1)
        ∧ b'.B_STEP = (if wraps then (b.B_STEP + 1) % P.BASS_STEPS else b.B_STEP)
        ∧ b'.B_RIDX = (if wraps ∧ (b.B_STEP + 1) % P.BASS_STEPS = 0 then (b.B_RIDX + 1) % P.BASS_ROOT_LEN
            else b.B_RIDX)
        ∧ (∀ r : Register, r ∉ [Register.B_Q, .B_STEP, .B_RIDX] → r.agree b' b)
        ∧ sameControl b' b

/-- R112 corner case (c): from the reset values, after `n` Bass sequencer steps the root index has advanced exactly
once per `BASS_STEPS x SPQ` steps. -/
def Obligations.BassRootAdvancesOncePerPass : Prop :=
  ∀ (ν : Type) (P : Params ν) (b : Block ν), P.wfSizes = true → b.AtReset P.NUMFMT → 1 ≤ b.SPQ → ∀ n : Nat,
    ∃ b' : Block ν, seqbRun P n b = .ok b'
      ∧ b'.B_Q = n % b.SPQ ∧ b'.B_STEP = n / b.SPQ % P.BASS_STEPS
      ∧ b'.B_RIDX = n / (P.BASS_STEPS * b.SPQ) % P.BASS_ROOT_LEN

/-! ## The envelopes -/

/-- R120: one ENVL: the accumulator, the smoothed value, the value returned, the mute by the gate in a format with
`zero_mul`, and that nothing else is written. -/
def Obligations.LeadEnvelopeStep : Prop :=
  ∀ (ν : Type) (P : Params ν) (restruck gate : Bool) (b : Block ν),
    let F := P.NUMFMT
    let b' := (envl P restruck gate b).1
    let start := if restruck = true then F.ofInt 0 else b.L_EACC
    b'.L_EACC = F.min (F.max (F.add start (F.mul P.LEAD_ENV_RATE b.T)) (F.ofInt 0)) (F.ofInt 1)
      ∧ b'.L_ESM = F.add (F.mul b'.L_EACC P.SM_IN) (F.mul b.L_ESM P.SM_FB)
      ∧ (envl P restruck gate b).2 = F.mul b'.L_ESM (if gate = true then F.ofInt 1 else F.ofInt 0)
      ∧ (ZeroMul F → F.isFinite b'.L_ESM = true → gate = false →
          F.eq (envl P restruck gate b).2 (F.ofInt 0) = true)
      ∧ (∀ r : Register, r ∉ [Register.L_EACC, .L_ESM] → r.agree b' b) ∧ sameControl b' b

/-- R120 (shape): in the reference instance with the defaults, `n + 1` ticks from an accumulator at 0 it reads
`min((n + 1) x 4 x T, 1)`, and the smoothed value stays in [0,1]. -/
def Obligations.LeadEnvelopeRamp : Prop :=
  ∀ (o : OpenParams ℝ) (b : Block ℝ), 0 ≤ b.T → b.L_EACC = 0 → 0 ≤ b.L_ESM → b.L_ESM ≤ 1 → ∀ n : Nat,
    let b' := envlRun (Reference.params o) (n + 1) b
    b'.L_EACC = min (((n : ℝ) + 1) * 4 * b.T) 1 ∧ 0 ≤ b'.L_ESM ∧ b'.L_ESM ≤ 1

/-- R121: one ENVB: the value before the decrement, 1 on a restrike. -/
def Obligations.BassEnvelopeStep : Prop :=
  ∀ (ν : Type) (P : Params ν) (restruck : Bool) (b : Block ν),
    let F := P.NUMFMT
    let env := if restruck = true then F.ofInt 1 else b.B_ENV
    (envb P restruck b).2 = env
      ∧ (envb P restruck b).1.B_ENV = F.sub env (F.div (F.ofInt 1) (F.ofInt b.SPQ))
      ∧ (∀ r : Register, r ≠ .B_ENV → r.agree (envb P restruck b).1 b) ∧ sameControl (envb P restruck b).1 b

/-- R121 (shape): in the reference instance the Bass envelope answers `1 - k / SPQ` on tick `k` of a quantum. -/
def Obligations.BassEnvelopeDecaysLinearly : Prop :=
  ∀ (P : Params ℝ) (b : Block ℝ), P.NUMFMT = Reference.numfmt → 1 ≤ b.SPQ → ∀ k : Nat,
    (envb P true b).2 = 1
      ∧ (envb P false (envbRun P k (envb P true b).1)).2 = 1 - ((k : ℝ) + 1) / (b.SPQ : ℝ)

/-! ## The voices -/

/-- R130: one LEAD: the sequencer, the envelope, the vibrato phase, the two oscillators on the phases after their
advance, the two sawtooths and their sum; and every register it does not write. -/
def Obligations.LeadVoiceSample : Prop :=
  ∀ (ν : Type) (P : Params ν) (b b1 : Block ν) (e : LeadEvent), seql P b = .ok (b1, e) →
    let F := P.NUMFMT
    let env := (envl P e.restruck e.gate b1).2
    let vib := wrap1 F (F.add b.L_LFO (F.mul P.LEAD_LFO_HZ b.T))
    let nm := F.add (F.ofInt e.note) (F.mul (F.mul P.LEAD_VIB_DEPTH (F.sin2pi vib)) env)
    let ph1 := wrap1 F (F.add b.L_PH1 (F.mul (note2f P nm) b.T))
    let ph2 := wrap1 F (F.add b.L_PH2 (F.mul (note2f P (F.add nm P.LEAD_DETUNE)) b.T))
    let s1 := F.mul (F.mul (pdsaw P ph1 P.LEAD_DUTY1) P.LEAD_GAIN) env
    let s2 := F.mul (F.mul (pdsaw P ph2 P.LEAD_DUTY2) P.LEAD_GAIN) env
    ∃ b' : Block ν, lead P b = .ok (b', F.add s1 s2)
      ∧ b'.L_LFO = vib ∧ b'.L_PH1 = ph1 ∧ b'.L_PH2 = ph2
      ∧ b'.L_EACC = (envl P e.restruck e.gate b1).1.L_EACC ∧ b'.L_ESM = (envl P e.restruck e.gate b1).1.L_ESM
      ∧ b'.L_Q = b1.L_Q ∧ b'.L_STEP = b1.L_STEP ∧ b'.L_PIDX = b1.L_PIDX ∧ b'.L_ARMED = b1.L_ARMED
      ∧ b'.L_GATE = b1.L_GATE
      ∧ sameControl b' b ∧ sameBass b' b ∧ sameDelay b' b

/-- R130 corner case (a) and its output range: in the reference instance the Lead is exactly 0 while the gate is
closed, and never above 0.3 in size with the default gains while the smoothed envelope is in [0,1]. -/
def Obligations.LeadMutedUntilGate : Prop :=
  ∀ (o : OpenParams ℝ) (b b' : Block ℝ) (out : ℝ), lead (Reference.params o) b = .ok (b', out) →
    (b.L_GATE = false → out = 0) ∧ (0 ≤ b.L_ESM → b.L_ESM ≤ 1 → |out| ≤ 0.3)

/-- R131: one BASS: the sequencer, the envelope, the pulse width from the triangle of the LFO phase, the PWM
oscillator under the envelope, the sub-oscillator an octave lower without it; and every register it does not write. -/
def Obligations.BassVoiceSample : Prop :=
  ∀ (ν : Type) (P : Params ν) (b b1 : Block ν) (e : BassEvent), seqb P b = .ok (b1, e) →
    let F := P.NUMFMT
    let env := (envb P e.restruck b1).2
    let slow := wrap1 F (F.add b.B_LFO (F.mul P.BASS_LFO_HZ b.T))
    let w := F.add P.BASS_PW_OFFSET (F.mul P.BASS_PW_DEPTH (tri F slow))
    let ph1 := wrap1 F (F.add b.B_PH1 (F.mul (note2f P (F.ofInt e.note)) b.T))
    let ph2 := wrap1 F (F.add b.B_PH2 (F.mul (note2f P (F.ofInt (e.note - P.SEMIS))) b.T))
    let s1 := F.mul (F.mul (pwm P ph1 w) P.BASS_GAIN) env
    let s2 := F.mul (pdsaw P ph2 P.BASS_SUB_DUTY) P.BASS_GAIN
    ∃ b' : Block ν, bass P b = .ok (b', F.add s1 s2)
      ∧ b'.B_LFO = slow ∧ b'.B_PH1 = ph1 ∧ b'.B_PH2 = ph2
      ∧ b'.B_ENV = (envb P e.restruck b1).1.B_ENV
      ∧ b'.B_Q = b1.B_Q ∧ b'.B_STEP = b1.B_STEP ∧ b'.B_RIDX = b1.B_RIDX
      ∧ sameControl b' b ∧ sameLead b' b ∧ sameDelay b' b

/-- R132: the voices do not interact: run in the other order they give the same two samples and the same state. -/
def Obligations.VoicesDoNotInteract : Prop :=
  ∀ (ν : Type) (P : Params ν) (b b1 b2 : Block ν) (xb xl : ν),
    bass P b = .ok (b1, xb) → lead P b1 = .ok (b2, xl) →
    ∃ b3 : Block ν, lead P b = .ok (b3, xl) ∧ bass P b3 = .ok (b2, xb)

/-! ## The delay, the mixer and the buffer -/

/-- R140: one DLY: read at `(D_WCUR - DTIME) mod DELAY_CAP`, write `x + FB x y` at the cursor, advance the cursor; no
other cell and no other register changes. -/
def Obligations.DelayStep : Prop :=
  ∀ (ν : Type) [DecidableEq ν] (P : Params ν) (x : ν) (b : Block ν),
    b.D_WCUR < P.DELAY_CAP → b.DTIME < P.DELAY_CAP → Memory.wf P.NUMFMT.zero b.DBUF = true →
    let F := P.NUMFMT
    let y := b.DBUF.read F.zero (((b.D_WCUR : Int) - (b.DTIME : Int)) % (P.DELAY_CAP : Int)).toNat
    ((((b.D_WCUR : Int) - (b.DTIME : Int)) % (P.DELAY_CAP : Int)).toNat
        = if b.DTIME ≤ b.D_WCUR then b.D_WCUR - b.DTIME else b.D_WCUR + P.DELAY_CAP - b.DTIME)
      ∧ ∃ b' : Block ν, dly P x b = .ok (b', y)
        ∧ b'.DBUF.read F.zero b.D_WCUR = F.add x (F.mul P.FB y)
        ∧ (∀ a, a ≠ b.D_WCUR → b'.DBUF.read F.zero a = b.DBUF.read F.zero a)
        ∧ b'.D_WCUR = (b.D_WCUR + 1) % P.DELAY_CAP
        ∧ (∀ r : Register, r ∉ [Register.D_WCUR, .DBUF] → r.agree b' b) ∧ sameControl b' b

/-- R141, and R60 for a delay time of 0 (where the cell read was written DELAY_CAP ticks earlier): from the reset
values, `y[t] = 0` before the delay has passed and `y[t] = x[t - D] + FB x y[t - D]` from then on, in any format. -/
def Obligations.DelayRecurrence : Prop :=
  ∀ (ν : Type) [DecidableEq ν] (P : Params ν) (xs : List ν) (b : Block ν),
    b.DBUF = [] → b.D_WCUR = 0 → b.DTIME < P.DELAY_CAP →
    let F := P.NUMFMT
    let D := if b.DTIME = 0 then P.DELAY_CAP else b.DTIME
    ∃ (ys : List ν) (b' : Block ν), dlyRun P xs b = .ok (ys, b') ∧ ys.length = xs.length
      ∧ (∀ t, t < xs.length → t < D → ys[t]? = some (F.ofInt 0))
      ∧ ∀ t x y, D ≤ t → t < xs.length → xs[t - D]? = some x → ys[t - D]? = some y →
          ys[t]? = some (F.add x (F.mul P.FB y))

/-- R59, R143: the buffer is its cells. Two canonical buffers with the same cells are the same data; a later write to a
cell hides an earlier one, writes to two cells commute, and writing a cell's own value changes nothing. -/
def Obligations.BufferIsItsCells : Prop :=
  ∀ (ν : Type) [DecidableEq ν] (zero : ν) (m : DelayMemory ν), Memory.wf zero m = true →
    (∀ m' : DelayMemory ν, Memory.wf zero m' = true → (∀ a, m.read zero a = m'.read zero a) → m = m')
      ∧ (∀ a v w, (m.write zero a v).write zero a w = m.write zero a w)
      ∧ (∀ a c v w, a ≠ c → (m.write zero a v).write zero c w = (m.write zero c w).write zero a v)
      ∧ ∀ a, m.write zero a (m.read zero a) = m

/-- R156: MIX adds left to right, and in the reference instance does not clip. -/
def Obligations.MixerSum : Prop :=
  (∀ (ν : Type) (F : NumFmt ν) (b l d : ν), mix F b l d = F.add (F.add b l) d)
    ∧ (∀ b l d : ℝ, mix Reference.numfmt b l d = b + l + d)
    ∧ mix Reference.numfmt (-0.6) 0.2 0.05 = -0.35 ∧ mix Reference.numfmt 0.6 0.3 0.4615 = 1.3615

/-- R203, R16: a unit operation leaves every register it does not list unchanged, and every control register. -/
def Obligations.UnitOperationFrames : Prop :=
  ∀ (ν : Type) [DecidableEq ν] (P : Params ν) (u : UnitCall ν) (b b' : Block ν) (r : UnitResult ν),
    performUnit P u b = .ok (b', r) →
    sameControl b' b ∧ ∀ q : Register, q ∉ unitWrites u → q.agree b' b

/-- R16, R51, R52, R204: with the indexes in range every unit operation completes, on any operands, and leaves them in
range. -/
def Obligations.UnitOperationsComplete : Prop :=
  ∀ (ν : Type) [DecidableEq ν] (P : Params ν) (u : UnitCall ν) (b : Block ν), P.wfSizes = true → b.InRange P →
    ∃ (b' : Block ν) (r : UnitResult ν), performUnit P u b = .ok (b', r) ∧ b'.InRange P

/-- R81 (`RENDER n`), R159: the result of `n` presented TICKs is the run of `n` ticks on the block: the valid samples in
order, and the state after them. That the presented TICKs stand in the list `pending` is the model's form of the ports
(log 7). -/
def Obligations.RenderIsTickRun : Prop :=
  ∀ (n : Nat) (s : State) (ys : List NumCode) (b : Block NumCode),
    s.pending = (ScriptLine.render n).transactions s.ratePort → tickRun params n s.block = .ok (ys, b) →
    ∃ u : State, scriptRun n s = .next (ys, u) ∧ u.block = b ∧ u.pending = [] ∧ u.freeIndex = s.freeIndex

/-! ## Parameters, formats and the headlines -/

/-- Tables 4a and 4b (R8) and the integer part of R9, of the machine's own parameter set; that a decimal literal is a
quotient of two integers is the model's reading (log 2). -/
def Obligations.DefaultParameters : Prop :=
  let F := Config.numfmt
  params.NUMFMT = F ∧ params.CLOCK = 9 ∧ params.DELAY_FACTOR = F.div (F.ofInt 398) (F.ofInt 100)
    ∧ params.DELAY_CAP = 44100 ∧ params.FB = F.div (F.ofInt 35) (F.ofInt 100)
    ∧ params.SM_IN = F.div (F.ofInt 1) (F.ofInt 100) ∧ params.SM_FB = F.div (F.ofInt 99) (F.ofInt 100)
    ∧ params.PD_LO = F.div (F.ofInt 1) (F.ofInt 1000) ∧ params.PD_HI = F.div (F.ofInt 999) (F.ofInt 1000)
    ∧ params.PW_LO = F.div (F.ofInt 1) (F.ofInt 100) ∧ params.PW_HI = F.div (F.ofInt 99) (F.ofInt 100)
    ∧ params.A4_HZ = F.ofInt 440 ∧ params.A4_NOTE = 69 ∧ params.SEMIS = 12
    ∧ params.LEAD_STEPS = 256 ∧ params.BASS_STEPS = 32 ∧ params.ARP_LEN = 4 ∧ params.ARP = [57, 57, 59, 60]
    ∧ params.BASS_TRANSPOSE = -12 ∧ params.LEAD_ENV_RATE = F.ofInt 4
    ∧ params.LEAD_VIB_DEPTH = F.div (F.ofInt 1) (F.ofInt 10) ∧ params.LEAD_DETUNE = F.div (F.ofInt 1) (F.ofInt 10)
    ∧ params.LEAD_DUTY1 = F.div (F.ofInt 9) (F.ofInt 10) ∧ params.LEAD_DUTY2 = F.div (F.ofInt 91) (F.ofInt 100)
    ∧ params.LEAD_GAIN = F.div (F.ofInt 15) (F.ofInt 100) ∧ params.BASS_GAIN = F.div (F.ofInt 3) (F.ofInt 10)
    ∧ params.LEAD_PITCH_LEN = 15 ∧ params.BASS_ROOT_LEN = 8
    ∧ params.BASS_PW_OFFSET = F.ofInt 0 ∧ params.BASS_PW_DEPTH = F.ofInt 1
    ∧ params.LEAD_TRIG.length = 256 ∧ params.LEAD_PITCH.length = 15 ∧ params.BASS_ROOT.length = 8
    ∧ params.BASS_ROOT[0]? = some 0

/-- R14: the reference instance has all the named properties, `finite_closed` for every parameter set. That the ranges
`finite_closed` means are those of the runs after a successful INIT is the model's reading (log 8). -/
def Obligations.ReferenceHasNamedProperties : Prop :=
  Wrap1Range Reference.numfmt ∧ CosRange Reference.numfmt ∧ SinRange Reference.numfmt ∧ Exp2Pos Reference.numfmt
    ∧ ZeroMul Reference.numfmt ∧ ∀ P : Params ℝ, P.NUMFMT = Reference.numfmt → FiniteClosed P

/-- The bounded-index invariant holds at power-on; for `SPQ` and `DTIME` there it rests on the values the model names
(log 4). -/
def Obligations.InRangeAtReset : Prop := State.reset.InRange

/-- R51, R52, R113, R204: every step keeps the bounded-index invariant and the buffer's canonical form, and under it no
step is stuck. That a RESET keeps the bounds of `SPQ` and `DTIME` is the model's choice of free values (log 5). -/
def Obligations.InRangeKeptByStep : Prop :=
  ∀ s : State, s.InRange → ∃ t : State, step s = .next t ∧ t.InRange

/-- R157, R152, R204: in the reference instance with the default parameters, whatever the open ones, every TICK after a
successful INIT produces a sample, none is a fault, and no sample exceeds `0.6 + 0.3 + 0.3 / (1 - FB)` in size. -/
def Obligations.OutputBound : Prop :=
  ∀ (o : OpenParams ℝ) (V : FreeValues ℝ) (rate : ℝ) (b : Block ℝ) (n : Nat),
    b.MODE ≠ .failed → initCheck (Reference.params o) rate = .none →
    ∃ (ys : List ℝ) (b' : Block ℝ),
      tickRun (Reference.params o) n (init (Reference.params o) V rate b) = .ok (ys, b')
        ∧ ys.length = n ∧ b'.MODE = .running ∧ ∀ y ∈ ys, |y| ≤ 0.6 + 0.3 + 0.3 / (1 - 0.35)

/-- Table 4b (R8), R100, R102 (the increments of this block): with both LFO rates above 0, as table 4b types them, every
increment a TICK computes is positive in the reference instance with the default parameters, after any number of TICKs
from a successful INIT. -/
def Obligations.IncrementsArePositive : Prop :=
  ∀ (o : OpenParams ℝ) (V : FreeValues ℝ) (rate : ℝ) (b b' : Block ℝ) (n : Nat) (ys : List ℝ),
    (Reference.params o).wfOpen = true → b.MODE ≠ .failed → initCheck (Reference.params o) rate = .none →
    tickRun (Reference.params o) n (init (Reference.params o) V rate b) = .ok (ys, b') →
    0 < phinc Reference.numfmt b' (Reference.params o).LEAD_LFO_HZ
      ∧ 0 < phinc Reference.numfmt b' (Reference.params o).BASS_LFO_HZ
      ∧ ∀ note : ℝ, 0 < phinc Reference.numfmt b' (note2f (Reference.params o) note)

/-- R14, R152: in a format and with parameters that have `finite_closed`, no TICK after a successful INIT faults:
each of `n` TICKs produces a finite sample. The ranges of `finite_closed` are the model's reading (log 8). -/
def Obligations.FiniteClosedRunsNeverFault : Prop :=
  ∀ (ν : Type) [DecidableEq ν] (P : Params ν) (V : FreeValues ν) (rate : ν) (b : Block ν) (n : Nat),
    P.wfSizes = true → FiniteClosed P → b.MODE ≠ .failed → initCheck P rate = .none →
    ∃ (ys : List ν) (b' : Block ν), tickRun P n (init P V rate b) = .ok (ys, b')
      ∧ ys.length = n ∧ (∀ y ∈ ys, P.NUMFMT.isFinite y = true) ∧ b'.MODE = .running ∧ b'.CAUSE = .none

/-- R157, R204: in the reference instance with the default parameters, whatever the open ones, the bounds on the
envelopes and on the buffer's cells are kept by every TICK, which produces a sample within the output bound; and a
successful INIT meets them. -/
def Obligations.BoundedKeptByTick : Prop :=
  (∀ (o : OpenParams ℝ) (b : Block ℝ), b.Bounded (Reference.params o) →
      ∃ (b' : Block ℝ) (y : ℝ), tick (Reference.params o) b = .ok (b', some y)
        ∧ b'.Bounded (Reference.params o) ∧ |y| ≤ 0.6 + 0.3 + 0.3 / (1 - 0.35))
    ∧ ∀ (o : OpenParams ℝ) (V : FreeValues ℝ) (rate : ℝ) (b : Block ℝ),
      b.MODE ≠ .failed → initCheck (Reference.params o) rate = .none →
      (init (Reference.params o) V rate b).Bounded (Reference.params o)
end

