-- ==== Sys2Proof/Laws/State.lean ====
section
/-! SUPPORT. One lemma per field per named update of the block and of the state, true by `rfl`, so that no later proof
unfolds a record update. -/

namespace Sys2Proof.Machine

variable {ν : Type}

/-! ## `raiseFault` -/

@[simp] theorem raiseFault_RATE (c : Cause) (b : Block ν) :
    (raiseFault c b).RATE = b.RATE := rfl

@[simp] theorem raiseFault_T (c : Cause) (b : Block ν) :
    (raiseFault c b).T = b.T := rfl

@[simp] theorem raiseFault_SPQ (c : Cause) (b : Block ν) :
    (raiseFault c b).SPQ = b.SPQ := rfl

@[simp] theorem raiseFault_DTIME (c : Cause) (b : Block ν) :
    (raiseFault c b).DTIME = b.DTIME := rfl

@[simp] theorem raiseFault_MODE (c : Cause) (b : Block ν) :
    (raiseFault c b).MODE = .failed := rfl

@[simp] theorem raiseFault_CAUSE (c : Cause) (b : Block ν) :
    (raiseFault c b).CAUSE = (if b.MODE = .failed then b.CAUSE else c) := rfl

@[simp] theorem raiseFault_L_Q (c : Cause) (b : Block ν) :
    (raiseFault c b).L_Q = b.L_Q := rfl

@[simp] theorem raiseFault_L_STEP (c : Cause) (b : Block ν) :
    (raiseFault c b).L_STEP = b.L_STEP := rfl

@[simp] theorem raiseFault_L_PIDX (c : Cause) (b : Block ν) :
    (raiseFault c b).L_PIDX = b.L_PIDX := rfl

@[simp] theorem raiseFault_L_ARMED (c : Cause) (b : Block ν) :
    (raiseFault c b).L_ARMED = b.L_ARMED := rfl

@[simp] theorem raiseFault_L_GATE (c : Cause) (b : Block ν) :
    (raiseFault c b).L_GATE = b.L_GATE := rfl

@[simp] theorem raiseFault_L_EACC (c : Cause) (b : Block ν) :
    (raiseFault c b).L_EACC = b.L_EACC := rfl

@[simp] theorem raiseFault_L_ESM (c : Cause) (b : Block ν) :
    (raiseFault c b).L_ESM = b.L_ESM := rfl

@[simp] theorem raiseFault_L_LFO (c : Cause) (b : Block ν) :
    (raiseFault c b).L_LFO = b.L_LFO := rfl

@[simp] theorem raiseFault_L_PH1 (c : Cause) (b : Block ν) :
    (raiseFault c b).L_PH1 = b.L_PH1 := rfl

@[simp] theorem raiseFault_L_PH2 (c : Cause) (b : Block ν) :
    (raiseFault c b).L_PH2 = b.L_PH2 := rfl

@[simp] theorem raiseFault_B_Q (c : Cause) (b : Block ν) :
    (raiseFault c b).B_Q = b.B_Q := rfl

@[simp] theorem raiseFault_B_STEP (c : Cause) (b : Block ν) :
    (raiseFault c b).B_STEP = b.B_STEP := rfl

@[simp] theorem raiseFault_B_RIDX (c : Cause) (b : Block ν) :
    (raiseFault c b).B_RIDX = b.B_RIDX := rfl

@[simp] theorem raiseFault_B_ENV (c : Cause) (b : Block ν) :
    (raiseFault c b).B_ENV = b.B_ENV := rfl

@[simp] theorem raiseFault_B_LFO (c : Cause) (b : Block ν) :
    (raiseFault c b).B_LFO = b.B_LFO := rfl

@[simp] theorem raiseFault_B_PH1 (c : Cause) (b : Block ν) :
    (raiseFault c b).B_PH1 = b.B_PH1 := rfl

@[simp] theorem raiseFault_B_PH2 (c : Cause) (b : Block ν) :
    (raiseFault c b).B_PH2 = b.B_PH2 := rfl

@[simp] theorem raiseFault_D_WCUR (c : Cause) (b : Block ν) :
    (raiseFault c b).D_WCUR = b.D_WCUR := rfl

@[simp] theorem raiseFault_DBUF (c : Cause) (b : Block ν) :
    (raiseFault c b).DBUF = b.DBUF := rfl

/-! ## `resetRegisters` -/

@[simp] theorem resetRegisters_RATE (F : NumFmt ν) (b : Block ν) :
    (resetRegisters F b).RATE = b.RATE := rfl

@[simp] theorem resetRegisters_T (F : NumFmt ν) (b : Block ν) :
    (resetRegisters F b).T = b.T := rfl

@[simp] theorem resetRegisters_SPQ (F : NumFmt ν) (b : Block ν) :
    (resetRegisters F b).SPQ = b.SPQ := rfl

@[simp] theorem resetRegisters_DTIME (F : NumFmt ν) (b : Block ν) :
    (resetRegisters F b).DTIME = b.DTIME := rfl

@[simp] theorem resetRegisters_MODE (F : NumFmt ν) (b : Block ν) :
    (resetRegisters F b).MODE = b.MODE := rfl

@[simp] theorem resetRegisters_CAUSE (F : NumFmt ν) (b : Block ν) :
    (resetRegisters F b).CAUSE = b.CAUSE := rfl

@[simp] theorem resetRegisters_L_Q (F : NumFmt ν) (b : Block ν) :
    (resetRegisters F b).L_Q = 0 := rfl

@[simp] theorem resetRegisters_L_STEP (F : NumFmt ν) (b : Block ν) :
    (resetRegisters F b).L_STEP = 0 := rfl

@[simp] theorem resetRegisters_L_PIDX (F : NumFmt ν) (b : Block ν) :
    (resetRegisters F b).L_PIDX = 0 := rfl

@[simp] theorem resetRegisters_L_ARMED (F : NumFmt ν) (b : Block ν) :
    (resetRegisters F b).L_ARMED = true := rfl

@[simp] theorem resetRegisters_L_GATE (F : NumFmt ν) (b : Block ν) :
    (resetRegisters F b).L_GATE = false := rfl

@[simp] theorem resetRegisters_L_EACC (F : NumFmt ν) (b : Block ν) :
    (resetRegisters F b).L_EACC = F.zero := rfl

@[simp] theorem resetRegisters_L_ESM (F : NumFmt ν) (b : Block ν) :
    (resetRegisters F b).L_ESM = F.zero := rfl

@[simp] theorem resetRegisters_L_LFO (F : NumFmt ν) (b : Block ν) :
    (resetRegisters F b).L_LFO = F.zero := rfl

@[simp] theorem resetRegisters_L_PH1 (F : NumFmt ν) (b : Block ν) :
    (resetRegisters F b).L_PH1 = F.zero := rfl

@[simp] theorem resetRegisters_L_PH2 (F : NumFmt ν) (b : Block ν) :
    (resetRegisters F b).L_PH2 = F.zero := rfl

@[simp] theorem resetRegisters_B_Q (F : NumFmt ν) (b : Block ν) :
    (resetRegisters F b).B_Q = 0 := rfl

@[simp] theorem resetRegisters_B_STEP (F : NumFmt ν) (b : Block ν) :
    (resetRegisters F b).B_STEP = 0 := rfl

@[simp] theorem resetRegisters_B_RIDX (F : NumFmt ν) (b : Block ν) :
    (resetRegisters F b).B_RIDX = 0 := rfl

@[simp] theorem resetRegisters_B_ENV (F : NumFmt ν) (b : Block ν) :
    (resetRegisters F b).B_ENV = F.one := rfl

@[simp] theorem resetRegisters_B_LFO (F : NumFmt ν) (b : Block ν) :
    (resetRegisters F b).B_LFO = F.zero := rfl

@[simp] theorem resetRegisters_B_PH1 (F : NumFmt ν) (b : Block ν) :
    (resetRegisters F b).B_PH1 = F.zero := rfl

@[simp] theorem resetRegisters_B_PH2 (F : NumFmt ν) (b : Block ν) :
    (resetRegisters F b).B_PH2 = F.zero := rfl

@[simp] theorem resetRegisters_D_WCUR (F : NumFmt ν) (b : Block ν) :
    (resetRegisters F b).D_WCUR = 0 := rfl

@[simp] theorem resetRegisters_DBUF (F : NumFmt ν) (b : Block ν) :
    (resetRegisters F b).DBUF = [] := rfl

/-! ## `resetBlock` -/

@[simp] theorem resetBlock_RATE (P : Params ν) (V : FreeValues ν) (k : Nat) (b : Block ν) :
    (resetBlock P V k b).RATE = V.rate k := rfl

@[simp] theorem resetBlock_T (P : Params ν) (V : FreeValues ν) (k : Nat) (b : Block ν) :
    (resetBlock P V k b).T = V.period k := rfl

@[simp] theorem resetBlock_SPQ (P : Params ν) (V : FreeValues ν) (k : Nat) (b : Block ν) :
    (resetBlock P V k b).SPQ = V.spq k + 1 := rfl

@[simp] theorem resetBlock_DTIME (P : Params ν) (V : FreeValues ν) (k : Nat) (b : Block ν) :
    (resetBlock P V k b).DTIME = V.dtime k % P.DELAY_CAP := rfl

@[simp] theorem resetBlock_MODE (P : Params ν) (V : FreeValues ν) (k : Nat) (b : Block ν) :
    (resetBlock P V k b).MODE = .unconfigured := rfl

@[simp] theorem resetBlock_CAUSE (P : Params ν) (V : FreeValues ν) (k : Nat) (b : Block ν) :
    (resetBlock P V k b).CAUSE = .none := rfl

@[simp] theorem resetBlock_L_Q (P : Params ν) (V : FreeValues ν) (k : Nat) (b : Block ν) :
    (resetBlock P V k b).L_Q = 0 := rfl

@[simp] theorem resetBlock_L_STEP (P : Params ν) (V : FreeValues ν) (k : Nat) (b : Block ν) :
    (resetBlock P V k b).L_STEP = 0 := rfl

@[simp] theorem resetBlock_L_PIDX (P : Params ν) (V : FreeValues ν) (k : Nat) (b : Block ν) :
    (resetBlock P V k b).L_PIDX = 0 := rfl

@[simp] theorem resetBlock_L_ARMED (P : Params ν) (V : FreeValues ν) (k : Nat) (b : Block ν) :
    (resetBlock P V k b).L_ARMED = true := rfl

@[simp] theorem resetBlock_L_GATE (P : Params ν) (V : FreeValues ν) (k : Nat) (b : Block ν) :
    (resetBlock P V k b).L_GATE = false := rfl

@[simp] theorem resetBlock_L_EACC (P : Params ν) (V : FreeValues ν) (k : Nat) (b : Block ν) :
    (resetBlock P V k b).L_EACC = P.NUMFMT.zero := rfl

@[simp] theorem resetBlock_L_ESM (P : Params ν) (V : FreeValues ν) (k : Nat) (b : Block ν) :
    (resetBlock P V k b).L_ESM = P.NUMFMT.zero := rfl

@[simp] theorem resetBlock_L_LFO (P : Params ν) (V : FreeValues ν) (k : Nat) (b : Block ν) :
    (resetBlock P V k b).L_LFO = P.NUMFMT.zero := rfl

@[simp] theorem resetBlock_L_PH1 (P : Params ν) (V : FreeValues ν) (k : Nat) (b : Block ν) :
    (resetBlock P V k b).L_PH1 = P.NUMFMT.zero := rfl

@[simp] theorem resetBlock_L_PH2 (P : Params ν) (V : FreeValues ν) (k : Nat) (b : Block ν) :
    (resetBlock P V k b).L_PH2 = P.NUMFMT.zero := rfl

@[simp] theorem resetBlock_B_Q (P : Params ν) (V : FreeValues ν) (k : Nat) (b : Block ν) :
    (resetBlock P V k b).B_Q = 0 := rfl

@[simp] theorem resetBlock_B_STEP (P : Params ν) (V : FreeValues ν) (k : Nat) (b : Block ν) :
    (resetBlock P V k b).B_STEP = 0 := rfl

@[simp] theorem resetBlock_B_RIDX (P : Params ν) (V : FreeValues ν) (k : Nat) (b : Block ν) :
    (resetBlock P V k b).B_RIDX = 0 := rfl

@[simp] theorem resetBlock_B_ENV (P : Params ν) (V : FreeValues ν) (k : Nat) (b : Block ν) :
    (resetBlock P V k b).B_ENV = P.NUMFMT.one := rfl

@[simp] theorem resetBlock_B_LFO (P : Params ν) (V : FreeValues ν) (k : Nat) (b : Block ν) :
    (resetBlock P V k b).B_LFO = P.NUMFMT.zero := rfl

@[simp] theorem resetBlock_B_PH1 (P : Params ν) (V : FreeValues ν) (k : Nat) (b : Block ν) :
    (resetBlock P V k b).B_PH1 = P.NUMFMT.zero := rfl

@[simp] theorem resetBlock_B_PH2 (P : Params ν) (V : FreeValues ν) (k : Nat) (b : Block ν) :
    (resetBlock P V k b).B_PH2 = P.NUMFMT.zero := rfl

@[simp] theorem resetBlock_D_WCUR (P : Params ν) (V : FreeValues ν) (k : Nat) (b : Block ν) :
    (resetBlock P V k b).D_WCUR = 0 := rfl

@[simp] theorem resetBlock_DBUF (P : Params ν) (V : FreeValues ν) (k : Nat) (b : Block ν) :
    (resetBlock P V k b).DBUF = [] := rfl

/-! ## `configured` -/

@[simp] theorem configured_RATE (P : Params ν) (V : FreeValues ν) (rate : ν) (b : Block ν) :
    (configured P V rate b).RATE = rate := rfl

@[simp] theorem configured_T (P : Params ν) (V : FreeValues ν) (rate : ν) (b : Block ν) :
    (configured P V rate b).T = P.NUMFMT.div P.NUMFMT.one rate := rfl

@[simp] theorem configured_SPQ (P : Params ν) (V : FreeValues ν) (rate : ν) (b : Block ν) :
    (configured P V rate b).SPQ = (spqOf P rate).toNat := rfl

@[simp] theorem configured_DTIME (P : Params ν) (V : FreeValues ν) (rate : ν) (b : Block ν) :
    (configured P V rate b).DTIME = delayTimeOf P V (dtimeOf P rate) := rfl

@[simp] theorem configured_MODE (P : Params ν) (V : FreeValues ν) (rate : ν) (b : Block ν) :
    (configured P V rate b).MODE = .running := rfl

@[simp] theorem configured_CAUSE (P : Params ν) (V : FreeValues ν) (rate : ν) (b : Block ν) :
    (configured P V rate b).CAUSE = .none := rfl

@[simp] theorem configured_L_Q (P : Params ν) (V : FreeValues ν) (rate : ν) (b : Block ν) :
    (configured P V rate b).L_Q = 0 := rfl

@[simp] theorem configured_L_STEP (P : Params ν) (V : FreeValues ν) (rate : ν) (b : Block ν) :
    (configured P V rate b).L_STEP = 0 := rfl

@[simp] theorem configured_L_PIDX (P : Params ν) (V : FreeValues ν) (rate : ν) (b : Block ν) :
    (configured P V rate b).L_PIDX = 0 := rfl

@[simp] theorem configured_L_ARMED (P : Params ν) (V : FreeValues ν) (rate : ν) (b : Block ν) :
    (configured P V rate b).L_ARMED = true := rfl

@[simp] theorem configured_L_GATE (P : Params ν) (V : FreeValues ν) (rate : ν) (b : Block ν) :
    (configured P V rate b).L_GATE = false := rfl

@[simp] theorem configured_L_EACC (P : Params ν) (V : FreeValues ν) (rate : ν) (b : Block ν) :
    (configured P V rate b).L_EACC = P.NUMFMT.zero := rfl

@[simp] theorem configured_L_ESM (P : Params ν) (V : FreeValues ν) (rate : ν) (b : Block ν) :
    (configured P V rate b).L_ESM = P.NUMFMT.zero := rfl

@[simp] theorem configured_L_LFO (P : Params ν) (V : FreeValues ν) (rate : ν) (b : Block ν) :
    (configured P V rate b).L_LFO = P.NUMFMT.zero := rfl

@[simp] theorem configured_L_PH1 (P : Params ν) (V : FreeValues ν) (rate : ν) (b : Block ν) :
    (configured P V rate b).L_PH1 = P.NUMFMT.zero := rfl

@[simp] theorem configured_L_PH2 (P : Params ν) (V : FreeValues ν) (rate : ν) (b : Block ν) :
    (configured P V rate b).L_PH2 = P.NUMFMT.zero := rfl

@[simp] theorem configured_B_Q (P : Params ν) (V : FreeValues ν) (rate : ν) (b : Block ν) :
    (configured P V rate b).B_Q = 0 := rfl

@[simp] theorem configured_B_STEP (P : Params ν) (V : FreeValues ν) (rate : ν) (b : Block ν) :
    (configured P V rate b).B_STEP = 0 := rfl

@[simp] theorem configured_B_RIDX (P : Params ν) (V : FreeValues ν) (rate : ν) (b : Block ν) :
    (configured P V rate b).B_RIDX = 0 := rfl

@[simp] theorem configured_B_ENV (P : Params ν) (V : FreeValues ν) (rate : ν) (b : Block ν) :
    (configured P V rate b).B_ENV = P.NUMFMT.one := rfl

@[simp] theorem configured_B_LFO (P : Params ν) (V : FreeValues ν) (rate : ν) (b : Block ν) :
    (configured P V rate b).B_LFO = P.NUMFMT.zero := rfl

@[simp] theorem configured_B_PH1 (P : Params ν) (V : FreeValues ν) (rate : ν) (b : Block ν) :
    (configured P V rate b).B_PH1 = P.NUMFMT.zero := rfl

@[simp] theorem configured_B_PH2 (P : Params ν) (V : FreeValues ν) (rate : ν) (b : Block ν) :
    (configured P V rate b).B_PH2 = P.NUMFMT.zero := rfl

@[simp] theorem configured_D_WCUR (P : Params ν) (V : FreeValues ν) (rate : ν) (b : Block ν) :
    (configured P V rate b).D_WCUR = 0 := rfl

@[simp] theorem configured_DBUF (P : Params ν) (V : FreeValues ν) (rate : ν) (b : Block ν) :
    (configured P V rate b).DBUF = [] := rfl

/-! ## `writePhase` -/

@[simp] theorem writePhase_RATE (b : Block ν) (r : PhaseReg) (v : ν) :
    (writePhase b r v).RATE = b.RATE := by cases r <;> rfl

@[simp] theorem writePhase_T (b : Block ν) (r : PhaseReg) (v : ν) :
    (writePhase b r v).T = b.T := by cases r <;> rfl

@[simp] theorem writePhase_SPQ (b : Block ν) (r : PhaseReg) (v : ν) :
    (writePhase b r v).SPQ = b.SPQ := by cases r <;> rfl

@[simp] theorem writePhase_DTIME (b : Block ν) (r : PhaseReg) (v : ν) :
    (writePhase b r v).DTIME = b.DTIME := by cases r <;> rfl

@[simp] theorem writePhase_MODE (b : Block ν) (r : PhaseReg) (v : ν) :
    (writePhase b r v).MODE = b.MODE := by cases r <;> rfl

@[simp] theorem writePhase_CAUSE (b : Block ν) (r : PhaseReg) (v : ν) :
    (writePhase b r v).CAUSE = b.CAUSE := by cases r <;> rfl

@[simp] theorem writePhase_L_Q (b : Block ν) (r : PhaseReg) (v : ν) :
    (writePhase b r v).L_Q = b.L_Q := by cases r <;> rfl

@[simp] theorem writePhase_L_STEP (b : Block ν) (r : PhaseReg) (v : ν) :
    (writePhase b r v).L_STEP = b.L_STEP := by cases r <;> rfl

@[simp] theorem writePhase_L_PIDX (b : Block ν) (r : PhaseReg) (v : ν) :
    (writePhase b r v).L_PIDX = b.L_PIDX := by cases r <;> rfl

@[simp] theorem writePhase_L_ARMED (b : Block ν) (r : PhaseReg) (v : ν) :
    (writePhase b r v).L_ARMED = b.L_ARMED := by cases r <;> rfl

@[simp] theorem writePhase_L_GATE (b : Block ν) (r : PhaseReg) (v : ν) :
    (writePhase b r v).L_GATE = b.L_GATE := by cases r <;> rfl

@[simp] theorem writePhase_L_EACC (b : Block ν) (r : PhaseReg) (v : ν) :
    (writePhase b r v).L_EACC = b.L_EACC := by cases r <;> rfl

@[simp] theorem writePhase_L_ESM (b : Block ν) (r : PhaseReg) (v : ν) :
    (writePhase b r v).L_ESM = b.L_ESM := by cases r <;> rfl

@[simp] theorem writePhase_B_Q (b : Block ν) (r : PhaseReg) (v : ν) :
    (writePhase b r v).B_Q = b.B_Q := by cases r <;> rfl

@[simp] theorem writePhase_B_STEP (b : Block ν) (r : PhaseReg) (v : ν) :
    (writePhase b r v).B_STEP = b.B_STEP := by cases r <;> rfl

@[simp] theorem writePhase_B_RIDX (b : Block ν) (r : PhaseReg) (v : ν) :
    (writePhase b r v).B_RIDX = b.B_RIDX := by cases r <;> rfl

@[simp] theorem writePhase_B_ENV (b : Block ν) (r : PhaseReg) (v : ν) :
    (writePhase b r v).B_ENV = b.B_ENV := by cases r <;> rfl

@[simp] theorem writePhase_D_WCUR (b : Block ν) (r : PhaseReg) (v : ν) :
    (writePhase b r v).D_WCUR = b.D_WCUR := by cases r <;> rfl

@[simp] theorem writePhase_DBUF (b : Block ν) (r : PhaseReg) (v : ν) :
    (writePhase b r v).DBUF = b.DBUF := by cases r <;> rfl

@[simp] theorem readPhase_writePhase_same (b : Block ν) (r : PhaseReg) (v : ν) :
    readPhase (writePhase b r v) r = v := by cases r <;> rfl

theorem readPhase_writePhase_other (b : Block ν) (r q : PhaseReg) (v : ν) (h : q ≠ r) :
    readPhase (writePhase b r v) q = readPhase b q := by
  cases r <;> cases q <;> first | rfl | exact absurd rfl h

/-! ## The state -/

@[simp] theorem State.complete_block (s : State) (b : Block NumCode) (out : Option NumCode) :
    (s.complete b out).block = b := rfl

@[simp] theorem State.complete_sample (s : State) (b : Block NumCode) (out : Option NumCode) :
    (s.complete b out).sample = out := rfl

@[simp] theorem State.complete_ratePort (s : State) (b : Block NumCode) (out : Option NumCode) :
    (s.complete b out).ratePort = s.ratePort := rfl

@[simp] theorem State.complete_pending (s : State) (b : Block NumCode) (out : Option NumCode) :
    (s.complete b out).pending = s.pending := rfl

@[simp] theorem State.complete_freeIndex (s : State) (b : Block NumCode) (out : Option NumCode) :
    (s.complete b out).freeIndex = s.freeIndex := rfl

@[simp] theorem State.raise_block (s : State) (c : Cause) :
    (s.raise c).block = raiseFault c s.block := rfl

@[simp] theorem State.raise_sample (s : State) (c : Cause) :
    (s.raise c).sample = none := rfl

@[simp] theorem State.raise_ratePort (s : State) (c : Cause) :
    (s.raise c).ratePort = s.ratePort := rfl

@[simp] theorem State.raise_pending (s : State) (c : Cause) :
    (s.raise c).pending = s.pending := rfl

@[simp] theorem State.raise_freeIndex (s : State) (c : Cause) :
    (s.raise c).freeIndex = s.freeIndex := rfl

@[simp] theorem State.illegalCommand_block (s : State) :
    (s.illegalCommand).block = raiseFault .illCmd s.block := rfl

@[simp] theorem State.illegalCommand_sample (s : State) :
    (s.illegalCommand).sample = none := rfl

@[simp] theorem State.illegalCommand_ratePort (s : State) :
    (s.illegalCommand).ratePort = s.ratePort := rfl

@[simp] theorem State.illegalCommand_pending (s : State) :
    (s.illegalCommand).pending = s.pending := rfl

@[simp] theorem State.illegalCommand_freeIndex (s : State) :
    (s.illegalCommand).freeIndex = s.freeIndex := rfl

@[simp] theorem State.present_block (s : State) (t : Transaction NumCode) (rest : List (Transaction NumCode)) :
    (s.present t rest).block = s.block := rfl

@[simp] theorem State.present_sample (s : State) (t : Transaction NumCode) (rest : List (Transaction NumCode)) :
    (s.present t rest).sample = s.sample := rfl

@[simp] theorem State.present_ratePort (s : State) (t : Transaction NumCode) (rest : List (Transaction NumCode)) :
    (s.present t rest).ratePort = t.rate := rfl

@[simp] theorem State.present_pending (s : State) (t : Transaction NumCode) (rest : List (Transaction NumCode)) :
    (s.present t rest).pending = rest := rfl

@[simp] theorem State.present_freeIndex (s : State) (t : Transaction NumCode) (rest : List (Transaction NumCode)) :
    (s.present t rest).freeIndex = s.freeIndex := rfl

@[simp] theorem State.withFetchWord_block (s : State) (nbits w : Nat) :
    (s.withFetchWord nbits w).block = s.block := rfl

@[simp] theorem State.withFetchWord_sample (s : State) (nbits w : Nat) :
    (s.withFetchWord nbits w).sample = s.sample := rfl

@[simp] theorem State.withFetchWord_ratePort (s : State) (nbits w : Nat) :
    (s.withFetchWord nbits w).ratePort = s.ratePort := rfl

@[simp] theorem State.withFetchWord_pending (s : State) (nbits w : Nat) :
    (s.withFetchWord nbits w).pending = ⟨BitVec.ofNat 8 w, s.ratePort⟩ :: s.pending := rfl

@[simp] theorem State.withFetchWord_freeIndex (s : State) (nbits w : Nat) :
    (s.withFetchWord nbits w).freeIndex = s.freeIndex := rfl

end Sys2Proof.Machine
end

