-- ==== Sys2Proof/Laws/Memory.lean ====
section
/-! SUPPORT. The delay buffer: read after write, and that a write keeps the canonical form and the bound. -/

namespace Sys2Proof.Machine

variable {ν : Type}

@[simp] theorem read_nil (zero : ν) (a : Nat) : DelayMemory.read zero [] a = zero := rfl

@[simp] theorem below_nil (cap : Nat) : DelayMemory.below cap ([] : DelayMemory ν) = true := rfl

variable [DecidableEq ν]

@[simp] theorem Memory.wf_nil (zero : ν) : Memory.wf zero [] = true := rfl

theorem wfFrom_cons {zero : ν} {lo b : Nat} {v : ν} {rest : DelayMemory ν} :
    DelayMemory.wfFrom zero lo ((b, v) :: rest) = true ↔
      lo ≤ b ∧ v ≠ zero ∧ DelayMemory.wfFrom zero (b + 1) rest = true := by
  simp [DelayMemory.wfFrom, and_assoc]

theorem wfFrom_mono {zero : ν} {lo lo' : Nat} {m : DelayMemory ν} (h : DelayMemory.wfFrom zero lo m = true)
    (hl : lo' ≤ lo) : DelayMemory.wfFrom zero lo' m = true := by
  cases m with
  | nil => rfl
  | cons c rest =>
    obtain ⟨b, v⟩ := c
    rw [wfFrom_cons] at h ⊢
    exact ⟨by omega, h.2⟩

/-- Below its first possible index a canonical buffer lists nothing. -/
theorem read_of_lt {zero : ν} {lo : Nat} {m : DelayMemory ν} (h : DelayMemory.wfFrom zero lo m = true) {a : Nat}
    (ha : a < lo) : m.read zero a = zero := by
  induction m generalizing lo with
  | nil => rfl
  | cons c rest ih =>
    obtain ⟨b, v⟩ := c
    rw [wfFrom_cons] at h
    have hne : a ≠ b := by omega
    simp only [DelayMemory.read, if_neg hne]
    exact ih h.2.2 (by omega)

/-- A write keeps the canonical form. -/
theorem write_wfFrom {zero : ν} {lo : Nat} {m : DelayMemory ν} (h : DelayMemory.wfFrom zero lo m = true) (a : Nat)
    (v : ν) (ha : lo ≤ a) : DelayMemory.wfFrom zero lo (m.write zero a v) = true := by
  induction m generalizing lo with
  | nil =>
    unfold DelayMemory.write
    split
    · rfl
    · rename_i hv
      simp [ha, hv, DelayMemory.wfFrom]
  | cons c rest ih =>
    obtain ⟨b, w⟩ := c
    have h' := wfFrom_cons.mp h
    unfold DelayMemory.write
    split
    · split
      · exact h
      · rename_i hab hv
        rw [wfFrom_cons, wfFrom_cons]
        exact ⟨ha, hv, by omega, h'.2⟩
    · split
      · split
        · exact wfFrom_mono h'.2.2 (by omega)
        · rename_i hlt hab hv
          rw [wfFrom_cons]
          exact ⟨ha, hv, wfFrom_mono h'.2.2 (by omega)⟩
      · rename_i hlt hab
        rw [wfFrom_cons]
        exact ⟨h'.1, h'.2.1, ih h'.2.2 (by omega)⟩

theorem write_wf {zero : ν} {m : DelayMemory ν} (h : Memory.wf zero m = true) (a : Nat) (v : ν) :
    Memory.wf zero (m.write zero a v) = true :=
  write_wfFrom h a v (Nat.zero_le a)

theorem read_write_same_from {zero : ν} {lo : Nat} {m : DelayMemory ν} (h : DelayMemory.wfFrom zero lo m = true)
    (a : Nat) (v : ν) : (m.write zero a v).read zero a = v := by
  induction m generalizing lo with
  | nil =>
    unfold DelayMemory.write
    split
    · rename_i hv; simp [hv]
    · simp [DelayMemory.read]
  | cons c rest ih =>
    obtain ⟨b, w⟩ := c
    have h' := wfFrom_cons.mp h
    unfold DelayMemory.write
    split
    · split
      · rename_i hab hv
        have hne : a ≠ b := by omega
        simp only [DelayMemory.read, if_neg hne]
        rw [read_of_lt h'.2.2 (by omega), hv]
      · simp [DelayMemory.read]
    · split
      · split
        · rename_i hlt hab hv
          rw [read_of_lt h'.2.2 (by omega), hv]
        · simp [DelayMemory.read]
      · rename_i hlt hab
        simp only [DelayMemory.read, if_neg hab]
        exact ih h'.2.2

/-- A cell reads as the value last written to it. -/
theorem read_write_same {zero : ν} {m : DelayMemory ν} (h : Memory.wf zero m = true) (a : Nat) (v : ν) :
    (m.write zero a v).read zero a = v :=
  read_write_same_from h a v

/-- A write leaves every other cell alone. -/
theorem read_write_other (zero : ν) (m : DelayMemory ν) (a c : Nat) (v : ν) (hc : c ≠ a) :
    (m.write zero a v).read zero c = m.read zero c := by
  induction m with
  | nil =>
    unfold DelayMemory.write
    split
    · rfl
    · simp [DelayMemory.read, hc]
  | cons p rest ih =>
    obtain ⟨b, w⟩ := p
    unfold DelayMemory.write
    split
    · split
      · rfl
      · simp [DelayMemory.read, hc]
    · split
      · rename_i hlt hab
        have hcb : c ≠ b := by omega
        split <;> simp [DelayMemory.read, hc, hcb]
      · simp only [DelayMemory.read, ih]

/-- A write inside the space keeps every listed cell inside it. -/
theorem write_below {zero : ν} {m : DelayMemory ν} {cap a : Nat} (v : ν) (ha : a < cap) (h : m.below cap = true) :
    (m.write zero a v).below cap = true := by
  induction m with
  | nil =>
    unfold DelayMemory.write
    split
    · rfl
    · simp [DelayMemory.below, ha]
  | cons p rest ih =>
    obtain ⟨b, w⟩ := p
    simp only [DelayMemory.below, List.all_cons, Bool.and_eq_true, decide_eq_true_eq] at h ih ⊢
    unfold DelayMemory.write
    split
    · split
      · simp [h.1, h.2]
      · simp [h.1, h.2, ha]
    · split
      · split
        · exact h.2
        · simp [h.2, ha]
      · simp only [List.all_cons, Bool.and_eq_true, decide_eq_true_eq]
        exact ⟨h.1, ih h.2⟩

end Sys2Proof.Machine
end

