-- ==== Sys2Proof/Laws/Ops.lean ====
section
/-! SUPPORT. What the shared operations can do, said once each: add-then-wrap, the table reads, the buffer accesses,
the delay tap, the fault entry. -/

namespace Sys2Proof.Machine

variable {ν : Type}

theorem addThenWrap_lt {n : Nat} (i : Nat) (h : 1 ≤ n) : addThenWrap i n < n := Nat.mod_lt _ h

/-- A table read answers the cell inside the table and is stuck outside it. -/
theorem readTable_cases {α : Type} (sp : Space) (t : List α) (a : Nat) :
    (∃ h : a < t.length, readTable sp t a = .ok t[a]) ∨ (t.length ≤ a ∧ readTable sp t a = .error (.outOfRange sp a)) := by
  unfold readTable
  rcases Nat.lt_or_ge a t.length with h | h
  · exact .inl ⟨h, by rw [List.getElem?_eq_getElem h]⟩
  · exact .inr ⟨h, by rw [List.getElem?_eq_none h]⟩

theorem readTable_of_lt {α : Type} (sp : Space) {t : List α} {a : Nat} (h : a < t.length) :
    readTable sp t a = .ok t[a] := by
  rcases readTable_cases sp t a with ⟨_, he⟩ | ⟨hge, _⟩
  · exact he
  · omega

theorem readTable_of_ge {α : Type} (sp : Space) {t : List α} {a : Nat} (h : t.length ≤ a) :
    readTable sp t a = .error (.outOfRange sp a) := by
  rcases readTable_cases sp t a with ⟨hlt, _⟩ | ⟨_, he⟩
  · omega
  · exact he

theorem readTable_ok {α : Type} {sp : Space} {t : List α} {a : Nat} {c : α} (h : readTable sp t a = .ok c) :
    t[a]? = some c := by
  unfold readTable at h
  split at h
  · rename_i cell hc; cases h; exact hc
  · cases h

/-- What the integer part of R9 says, clause by clause. -/
theorem wfSizes_iff (P : Params ν) : P.wfSizes = true ↔
    1 ≤ P.CLOCK ∧ (1 ≤ P.DELAY_CAP ∧ 1 ≤ P.LEAD_STEPS ∧ 1 ≤ P.BASS_STEPS ∧ 1 ≤ P.ARP_LEN ∧ 1 ≤ P.LEAD_PITCH_LEN
      ∧ 1 ≤ P.BASS_ROOT_LEN)
    ∧ (P.LEAD_TRIG.length = P.LEAD_STEPS ∧ P.LEAD_PITCH.length = P.LEAD_PITCH_LEN ∧ P.ARP.length = P.ARP_LEN
      ∧ P.BASS_ROOT.length = P.BASS_ROOT_LEN)
    ∧ P.BASS_ROOT[0]? = some 0 := by
  simp [Params.wfSizes, Params.wfClock, Params.wfModuli, Params.wfTables, Params.wfRoot, and_assoc]

/-- The machine's parameters meet the integer part of R9, whatever the open ones are. -/
theorem defaultParams_wfSizes (F : NumFmt ν) (o : OpenParams ν) : (defaultParams F o).wfSizes = true := by
  rw [wfSizes_iff]
  simp [defaultParams]

theorem params_wfSizes : params.wfSizes = true := defaultParams_wfSizes _ _

/-- The tap lies in the buffer; `DTIME < DELAY_CAP` gives the two-case form of R140. -/
theorem delayTap_eq (P : Params ν) (b : Block ν) (hw : b.D_WCUR < P.DELAY_CAP) (hd : b.DTIME < P.DELAY_CAP) :
    delayTap P b = if b.DTIME ≤ b.D_WCUR then b.D_WCUR - b.DTIME else b.D_WCUR + P.DELAY_CAP - b.DTIME := by
  unfold delayTap
  split
  · rw [Int.emod_eq_of_lt (by omega) (by omega)]; omega
  · have : ((b.D_WCUR : Int) - b.DTIME) % (P.DELAY_CAP : Int) = (b.D_WCUR : Int) - b.DTIME + P.DELAY_CAP := by
      rw [← Int.add_emod_right, Int.emod_eq_of_lt (by omega) (by omega)]
    rw [this]; omega

theorem delayTap_lt (P : Params ν) (b : Block ν) (h : 1 ≤ P.DELAY_CAP) : delayTap P b < P.DELAY_CAP := by
  unfold delayTap
  have h1 := Int.emod_nonneg ((b.D_WCUR : Int) - b.DTIME) (b := (P.DELAY_CAP : Int)) (by omega)
  have h2 := Int.emod_lt_of_pos ((b.D_WCUR : Int) - b.DTIME) (b := (P.DELAY_CAP : Int)) (by omega)
  omega

/-- The latched delay time lies below the capacity once INIT's third check has passed. -/
theorem delayTimeOf_lt (P : Params ν) (V : FreeValues ν) (dt : Int) (hc : 1 ≤ P.DELAY_CAP)
    (h : dt < (P.DELAY_CAP : Int)) : delayTimeOf P V dt < P.DELAY_CAP := by
  unfold delayTimeOf
  split
  · omega
  · exact Nat.mod_lt _ hc

/-- A fault entry keeps the invariant: it touches no index register and no cell. -/
theorem raiseFault_inRange [DecidableEq ν] {P : Params ν} {b : Block ν} (c : Cause) (h : b.InRange P) :
    (raiseFault c b).InRange P :=
  ⟨h.spq, h.dtime, h.l_q, h.l_step, h.l_pidx, h.b_q, h.b_step, h.b_ridx, h.d_wcur, h.memory, h.below⟩

/-- Every register but CAUSE and MODE survives a fault entry. -/
theorem raiseFault_agree (c : Cause) (b : Block ν) (r : Register) : r.agree (raiseFault c b) b := by
  cases r <;> rfl

/-- RESET leaves a block that meets the invariant, whatever it was. -/
theorem resetBlock_inRange [DecidableEq ν] (P : Params ν) (V : FreeValues ν) (k : Nat) (b : Block ν)
    (hP : P.wfSizes = true) : (resetBlock P V k b).InRange P := by
  obtain ⟨-, ⟨hc, hl, hb, -, hp, hr⟩, -, -⟩ := (wfSizes_iff P).mp hP
  exact ⟨Nat.succ_pos _, Nat.mod_lt _ hc, Nat.succ_pos _, hl, hp, Nat.succ_pos _, hb, hr, hc, rfl, rfl⟩

/-- INIT's check passes exactly when the three conditions of R153 hold. -/
theorem initCheck_none (P : Params ν) (rate : ν) : initCheck P rate = .none ↔
    P.NUMFMT.isFinite rate = true ∧ P.NUMFMT.lt P.NUMFMT.zero rate = true ∧ 1 ≤ spqOf P rate
      ∧ dtimeOf P rate < (P.DELAY_CAP : Int) := by
  unfold initCheck
  cases h1 : P.NUMFMT.isFinite rate <;> cases h2 : P.NUMFMT.lt P.NUMFMT.zero rate <;> simp
  split
  · simp; omega
  · split
    · simp; omega
    · simp; omega

/-- The causes INIT can report. -/
theorem initCheck_cases (P : Params ν) (rate : ν) :
    initCheck P rate = .none ∨ initCheck P rate = .cfgRate ∨ initCheck P rate = .cfgSpq
      ∨ initCheck P rate = .cfgDelay := by
  unfold initCheck
  split
  · simp
  · split
    · simp
    · split <;> simp

/-- What INIT can do: nothing, a fault entry, or a fresh configuration. -/
theorem init_cases (P : Params ν) (V : FreeValues ν) (rate : ν) (b : Block ν) :
    (b.MODE = .failed ∧ init P V rate b = b)
      ∨ (b.MODE ≠ .failed ∧ initCheck P rate = .none ∧ init P V rate b = configured P V rate b)
      ∨ (b.MODE ≠ .failed ∧ initCheck P rate ≠ .none ∧ init P V rate b = raiseFault (initCheck P rate) b) := by
  unfold init
  by_cases h : b.MODE = .failed
  · exact .inl ⟨h, if_pos h⟩
  · rw [if_neg h]
    by_cases hc : initCheck P rate = .none
    · exact .inr (.inl ⟨h, hc, if_pos hc⟩)
    · exact .inr (.inr ⟨h, hc, if_neg hc⟩)

/-- A successful INIT leaves a block that meets the invariant. -/
theorem configured_inRange [DecidableEq ν] (P : Params ν) (V : FreeValues ν) (rate : ν) (b : Block ν)
    (hP : P.wfSizes = true) (hc : initCheck P rate = .none) : (configured P V rate b).InRange P := by
  obtain ⟨-, ⟨hcap, hl, hb, -, hp, hr⟩, -, -⟩ := (wfSizes_iff P).mp hP
  obtain ⟨-, -, hs, hd⟩ := (initCheck_none P rate).mp hc
  have h1 : 1 ≤ (spqOf P rate).toNat := by omega
  exact ⟨h1, delayTimeOf_lt P V _ hcap hd, h1, hl, hp, h1, hb, hr, hcap, rfl, rfl⟩

end Sys2Proof.Machine
end

