-- ==== Sys2Proof/Laws/Units.lean ====
section
/-! SUPPORT. What the unit operations and the TICK can do: for each, what an answered run did, which registers it left
alone (its frame, as one equation), when it completes, and that it keeps the bounded-index invariant. -/

namespace Sys2Proof.Machine

variable {ν : Type}

/-! ## One lemma per register: the advance of a sequencer -/

@[simp] theorem advanceLead_RATE (P : Params ν) (b : Block ν) : (advanceLead P b).RATE = b.RATE := by
  unfold advanceLead; split <;> rfl

@[simp] theorem advanceLead_T (P : Params ν) (b : Block ν) : (advanceLead P b).T = b.T := by
  unfold advanceLead; split <;> rfl

@[simp] theorem advanceLead_SPQ (P : Params ν) (b : Block ν) : (advanceLead P b).SPQ = b.SPQ := by
  unfold advanceLead; split <;> rfl

@[simp] theorem advanceLead_DTIME (P : Params ν) (b : Block ν) : (advanceLead P b).DTIME = b.DTIME := by
  unfold advanceLead; split <;> rfl

@[simp] theorem advanceLead_MODE (P : Params ν) (b : Block ν) : (advanceLead P b).MODE = b.MODE := by
  unfold advanceLead; split <;> rfl

@[simp] theorem advanceLead_CAUSE (P : Params ν) (b : Block ν) : (advanceLead P b).CAUSE = b.CAUSE := by
  unfold advanceLead; split <;> rfl

@[simp] theorem advanceLead_L_Q (P : Params ν) (b : Block ν) :
    (advanceLead P b).L_Q = (if b.L_Q + 1 = b.SPQ then 0 else b.L_Q + 1) := by
  unfold advanceLead; split <;> rfl

@[simp] theorem advanceLead_L_STEP (P : Params ν) (b : Block ν) :
    (advanceLead P b).L_STEP = (if b.L_Q + 1 = b.SPQ then addThenWrap b.L_STEP P.LEAD_STEPS else b.L_STEP) := by
  unfold advanceLead; split <;> rfl

@[simp] theorem advanceLead_L_PIDX (P : Params ν) (b : Block ν) : (advanceLead P b).L_PIDX = b.L_PIDX := by
  unfold advanceLead; split <;> rfl

@[simp] theorem advanceLead_L_ARMED (P : Params ν) (b : Block ν) : (advanceLead P b).L_ARMED = b.L_ARMED := by
  unfold advanceLead; split <;> rfl

@[simp] theorem advanceLead_L_GATE (P : Params ν) (b : Block ν) :
    (advanceLead P b).L_GATE = (if b.L_Q + 1 = b.SPQ then gateAfter (addThenWrap b.L_STEP P.LEAD_STEPS) b.L_GATE else b.L_GATE) := by
  unfold advanceLead; split <;> rfl

@[simp] theorem advanceLead_L_EACC (P : Params ν) (b : Block ν) : (advanceLead P b).L_EACC = b.L_EACC := by
  unfold advanceLead; split <;> rfl

@[simp] theorem advanceLead_L_ESM (P : Params ν) (b : Block ν) : (advanceLead P b).L_ESM = b.L_ESM := by
  unfold advanceLead; split <;> rfl

@[simp] theorem advanceLead_L_LFO (P : Params ν) (b : Block ν) : (advanceLead P b).L_LFO = b.L_LFO := by
  unfold advanceLead; split <;> rfl

@[simp] theorem advanceLead_L_PH1 (P : Params ν) (b : Block ν) : (advanceLead P b).L_PH1 = b.L_PH1 := by
  unfold advanceLead; split <;> rfl

@[simp] theorem advanceLead_L_PH2 (P : Params ν) (b : Block ν) : (advanceLead P b).L_PH2 = b.L_PH2 := by
  unfold advanceLead; split <;> rfl

@[simp] theorem advanceLead_B_Q (P : Params ν) (b : Block ν) : (advanceLead P b).B_Q = b.B_Q := by
  unfold advanceLead; split <;> rfl

@[simp] theorem advanceLead_B_STEP (P : Params ν) (b : Block ν) : (advanceLead P b).B_STEP = b.B_STEP := by
  unfold advanceLead; split <;> rfl

@[simp] theorem advanceLead_B_RIDX (P : Params ν) (b : Block ν) : (advanceLead P b).B_RIDX = b.B_RIDX := by
  unfold advanceLead; split <;> rfl

@[simp] theorem advanceLead_B_ENV (P : Params ν) (b : Block ν) : (advanceLead P b).B_ENV = b.B_ENV := by
  unfold advanceLead; split <;> rfl

@[simp] theorem advanceLead_B_LFO (P : Params ν) (b : Block ν) : (advanceLead P b).B_LFO = b.B_LFO := by
  unfold advanceLead; split <;> rfl

@[simp] theorem advanceLead_B_PH1 (P : Params ν) (b : Block ν) : (advanceLead P b).B_PH1 = b.B_PH1 := by
  unfold advanceLead; split <;> rfl

@[simp] theorem advanceLead_B_PH2 (P : Params ν) (b : Block ν) : (advanceLead P b).B_PH2 = b.B_PH2 := by
  unfold advanceLead; split <;> rfl

@[simp] theorem advanceLead_D_WCUR (P : Params ν) (b : Block ν) : (advanceLead P b).D_WCUR = b.D_WCUR := by
  unfold advanceLead; split <;> rfl

@[simp] theorem advanceLead_DBUF (P : Params ν) (b : Block ν) : (advanceLead P b).DBUF = b.DBUF := by
  unfold advanceLead; split <;> rfl

@[simp] theorem advanceBass_RATE (P : Params ν) (b : Block ν) : (advanceBass P b).RATE = b.RATE := by
  unfold advanceBass; split <;> rfl

@[simp] theorem advanceBass_T (P : Params ν) (b : Block ν) : (advanceBass P b).T = b.T := by
  unfold advanceBass; split <;> rfl

@[simp] theorem advanceBass_SPQ (P : Params ν) (b : Block ν) : (advanceBass P b).SPQ = b.SPQ := by
  unfold advanceBass; split <;> rfl

@[simp] theorem advanceBass_DTIME (P : Params ν) (b : Block ν) : (advanceBass P b).DTIME = b.DTIME := by
  unfold advanceBass; split <;> rfl

@[simp] theorem advanceBass_MODE (P : Params ν) (b : Block ν) : (advanceBass P b).MODE = b.MODE := by
  unfold advanceBass; split <;> rfl

@[simp] theorem advanceBass_CAUSE (P : Params ν) (b : Block ν) : (advanceBass P b).CAUSE = b.CAUSE := by
  unfold advanceBass; split <;> rfl

@[simp] theorem advanceBass_L_Q (P : Params ν) (b : Block ν) : (advanceBass P b).L_Q = b.L_Q := by
  unfold advanceBass; split <;> rfl

@[simp] theorem advanceBass_L_STEP (P : Params ν) (b : Block ν) : (advanceBass P b).L_STEP = b.L_STEP := by
  unfold advanceBass; split <;> rfl

@[simp] theorem advanceBass_L_PIDX (P : Params ν) (b : Block ν) : (advanceBass P b).L_PIDX = b.L_PIDX := by
  unfold advanceBass; split <;> rfl

@[simp] theorem advanceBass_L_ARMED (P : Params ν) (b : Block ν) : (advanceBass P b).L_ARMED = b.L_ARMED := by
  unfold advanceBass; split <;> rfl

@[simp] theorem advanceBass_L_GATE (P : Params ν) (b : Block ν) : (advanceBass P b).L_GATE = b.L_GATE := by
  unfold advanceBass; split <;> rfl

@[simp] theorem advanceBass_L_EACC (P : Params ν) (b : Block ν) : (advanceBass P b).L_EACC = b.L_EACC := by
  unfold advanceBass; split <;> rfl

@[simp] theorem advanceBass_L_ESM (P : Params ν) (b : Block ν) : (advanceBass P b).L_ESM = b.L_ESM := by
  unfold advanceBass; split <;> rfl

@[simp] theorem advanceBass_L_LFO (P : Params ν) (b : Block ν) : (advanceBass P b).L_LFO = b.L_LFO := by
  unfold advanceBass; split <;> rfl

@[simp] theorem advanceBass_L_PH1 (P : Params ν) (b : Block ν) : (advanceBass P b).L_PH1 = b.L_PH1 := by
  unfold advanceBass; split <;> rfl

@[simp] theorem advanceBass_L_PH2 (P : Params ν) (b : Block ν) : (advanceBass P b).L_PH2 = b.L_PH2 := by
  unfold advanceBass; split <;> rfl

@[simp] theorem advanceBass_B_Q (P : Params ν) (b : Block ν) :
    (advanceBass P b).B_Q = (if b.B_Q + 1 = b.SPQ then 0 else b.B_Q + 1) := by
  unfold advanceBass; split <;> rfl

@[simp] theorem advanceBass_B_STEP (P : Params ν) (b : Block ν) :
    (advanceBass P b).B_STEP = (if b.B_Q + 1 = b.SPQ then addThenWrap b.B_STEP P.BASS_STEPS else b.B_STEP) := by
  unfold advanceBass; split <;> rfl

@[simp] theorem advanceBass_B_RIDX (P : Params ν) (b : Block ν) :
    (advanceBass P b).B_RIDX = (if b.B_Q + 1 = b.SPQ then
        (if addThenWrap b.B_STEP P.BASS_STEPS = 0 then addThenWrap b.B_RIDX P.BASS_ROOT_LEN else b.B_RIDX)
      else b.B_RIDX) := by
  unfold advanceBass; split <;> rfl

@[simp] theorem advanceBass_B_ENV (P : Params ν) (b : Block ν) : (advanceBass P b).B_ENV = b.B_ENV := by
  unfold advanceBass; split <;> rfl

@[simp] theorem advanceBass_B_LFO (P : Params ν) (b : Block ν) : (advanceBass P b).B_LFO = b.B_LFO := by
  unfold advanceBass; split <;> rfl

@[simp] theorem advanceBass_B_PH1 (P : Params ν) (b : Block ν) : (advanceBass P b).B_PH1 = b.B_PH1 := by
  unfold advanceBass; split <;> rfl

@[simp] theorem advanceBass_B_PH2 (P : Params ν) (b : Block ν) : (advanceBass P b).B_PH2 = b.B_PH2 := by
  unfold advanceBass; split <;> rfl

@[simp] theorem advanceBass_D_WCUR (P : Params ν) (b : Block ν) : (advanceBass P b).D_WCUR = b.D_WCUR := by
  unfold advanceBass; split <;> rfl

@[simp] theorem advanceBass_DBUF (P : Params ν) (b : Block ν) : (advanceBass P b).DBUF = b.DBUF := by
  unfold advanceBass; split <;> rfl

/-! ## SEQL and SEQB -/

/-- Everything an answered SEQL did (42_step_sequencer.md R111). -/
theorem seql_cases {P : Params ν} {b b' : Block ν} {e : LeadEvent} (h : seql P b = .ok (b', e)) :
    ∃ (b1 : Block ν) (restruck : Bool) (note : Int),
      ((b.L_Q = 0 ∧ ∃ cell, P.LEAD_TRIG[b.L_STEP]? = some cell ∧ leadBoundary P cell b = (b1, restruck))
        ∨ (b.L_Q ≠ 0 ∧ b1 = b ∧ restruck = false))
      ∧ P.LEAD_PITCH[b1.L_PIDX]? = some note ∧ b' = advanceLead P b1
      ∧ e = { restruck := restruck, note := note, gate := b.L_GATE } := by
  unfold seql at h
  by_cases hq : b.L_Q = 0
  · rw [if_pos hq] at h
    cases hc : readLeadTrig P b.L_STEP with
    | error f => rw [hc] at h; cases h
    | ok cell =>
      rw [hc] at h
      cases hn : readLeadPitch P (leadBoundary P cell b).1.L_PIDX with
      | error f => simp only [bind, Except.bind, hn] at h; cases h
      | ok note =>
        simp only [bind, Except.bind, hn] at h
        cases h
        exact ⟨_, _, note, .inl ⟨hq, cell, readTable_ok hc, rfl⟩, readTable_ok hn, rfl, rfl⟩
  · rw [if_neg hq] at h
    cases hn : readLeadPitch P b.L_PIDX with
    | error f => simp only [bind, Except.bind, hn] at h; cases h
    | ok note =>
      simp only [bind, Except.bind, hn] at h
      cases h
      exact ⟨_, _, note, .inr ⟨hq, rfl, rfl⟩, readTable_ok hn, rfl, rfl⟩

theorem leadBoundary_pidx_lt {P : Params ν} {cell : Bit} {b : Block ν} (hp : 1 ≤ P.LEAD_PITCH_LEN)
    (h : b.L_PIDX < P.LEAD_PITCH_LEN) : (leadBoundary P cell b).1.L_PIDX < P.LEAD_PITCH_LEN := by
  simp only [leadBoundary]
  split
  · exact addThenWrap_lt _ hp
  · exact h

/-- SEQL completes when its two indexes are in range (20_memory.md R51). -/
theorem seql_completes {P : Params ν} (hP : P.wfSizes = true) {b : Block ν} (hs : b.L_STEP < P.LEAD_STEPS)
    (hp : b.L_PIDX < P.LEAD_PITCH_LEN) : ∃ b' e, seql P b = .ok (b', e) := by
  obtain ⟨-, ⟨-, -, -, -, hp1, -⟩, ⟨ht, hpl, -, -⟩, -⟩ := (wfSizes_iff P).mp hP
  unfold seql
  by_cases hq : b.L_Q = 0
  · have hb := leadBoundary_pidx_lt (cell := P.LEAD_TRIG[b.L_STEP]'(by omega)) hp1 hp
    rw [if_pos hq, readLeadTrig, readTable_of_lt _ (by omega)]
    simp only [bind, Except.bind, readLeadPitch, readTable_of_lt Space.LEAD_PITCH (hpl ▸ hb)]
    exact ⟨_, _, rfl⟩
  · rw [if_neg hq]
    simp only [bind, Except.bind, readLeadPitch, readTable_of_lt Space.LEAD_PITCH (hpl ▸ hp)]
    exact ⟨_, _, rfl⟩

theorem leadBoundary_frame (P : Params ν) (cell : Bit) (b : Block ν) :
    (leadBoundary P cell b).1
      = { b with L_PIDX := (leadBoundary P cell b).1.L_PIDX, L_ARMED := (leadBoundary P cell b).1.L_ARMED } := rfl

theorem advanceLead_frame (P : Params ν) (b : Block ν) :
    advanceLead P b = { b with
      L_Q := (advanceLead P b).L_Q, L_STEP := (advanceLead P b).L_STEP, L_GATE := (advanceLead P b).L_GATE } := by
  unfold advanceLead
  split <;> rfl

theorem advanceBass_frame (P : Params ν) (b : Block ν) :
    advanceBass P b = { b with
      B_Q := (advanceBass P b).B_Q, B_STEP := (advanceBass P b).B_STEP, B_RIDX := (advanceBass P b).B_RIDX } := by
  unfold advanceBass
  split <;> rfl

/-- SEQL writes `L_Q`, `L_STEP`, `L_PIDX`, `L_ARMED`, `L_GATE` and nothing else (R111). -/
theorem seql_frame {P : Params ν} {b b' : Block ν} {e : LeadEvent} (h : seql P b = .ok (b', e)) :
    b' = { b with
      L_Q := b'.L_Q, L_STEP := b'.L_STEP, L_PIDX := b'.L_PIDX, L_ARMED := b'.L_ARMED, L_GATE := b'.L_GATE } := by
  obtain ⟨b1, r, n, hb, -, rfl, -⟩ := seql_cases h
  have h1 : b1 = { b with L_PIDX := b1.L_PIDX, L_ARMED := b1.L_ARMED } := by
    rcases hb with ⟨-, cell, -, hl⟩ | ⟨-, rfl, -⟩
    · have := leadBoundary_frame P cell b
      rw [hl] at this
      exact this
    · rfl
  unfold advanceLead
  rw [h1]
  split <;> rfl

/-- The gate SEQL answers is the one at the start of the tick; the flag itself is never cleared (R111). -/
theorem seql_gate {P : Params ν} {b b' : Block ν} {e : LeadEvent} (h : seql P b = .ok (b', e)) :
    e.gate = b.L_GATE ∧ (b.L_GATE = true → b'.L_GATE = true) := by
  obtain ⟨b1, r, n, hb, -, rfl, rfl⟩ := seql_cases h
  refine ⟨rfl, fun hg => ?_⟩
  have hg1 : b1.L_GATE = true := by
    rcases hb with ⟨-, cell, -, hl⟩ | ⟨-, rfl, -⟩
    · have := congrArg Block.L_GATE (congrArg Prod.fst hl)
      exact this.symm.trans hg
    · exact hg
  unfold advanceLead
  split
  · simp only [gateAfter, hg1]; split <;> rfl
  · exact hg1

theorem advanceLead_bounds {P : Params ν} {b : Block ν} (hs1 : 1 ≤ b.SPQ) (hl1 : 1 ≤ P.LEAD_STEPS)
    (hq : b.L_Q < b.SPQ) (hs : b.L_STEP < P.LEAD_STEPS) :
    (advanceLead P b).L_Q < b.SPQ ∧ (advanceLead P b).L_STEP < P.LEAD_STEPS := by
  unfold advanceLead
  split
  · exact ⟨hs1, addThenWrap_lt _ hl1⟩
  · exact ⟨by simp only; omega, hs⟩

/-- SEQL keeps the invariant. -/
theorem seql_inRange [DecidableEq ν] {P : Params ν} (hP : P.wfSizes = true) {b b' : Block ν} {e : LeadEvent}
    (h : seql P b = .ok (b', e)) (hi : b.InRange P) : b'.InRange P := by
  obtain ⟨-, ⟨-, hl1, -, -, hp1, -⟩, -, -⟩ := (wfSizes_iff P).mp hP
  have hf := seql_frame h
  obtain ⟨b1, r, n, hb, -, rfl, -⟩ := seql_cases h
  have h1 : b1.SPQ = b.SPQ ∧ b1.L_Q = b.L_Q ∧ b1.L_STEP = b.L_STEP ∧ b1.L_PIDX < P.LEAD_PITCH_LEN := by
    rcases hb with ⟨-, cell, -, hl⟩ | ⟨-, rfl, -⟩
    · have h2 := congrArg Prod.fst hl
      subst h2
      exact ⟨rfl, rfl, rfl, leadBoundary_pidx_lt hp1 hi.l_pidx⟩
    · exact ⟨rfl, rfl, rfl, hi.l_pidx⟩
  obtain ⟨hs, hq, hst, hpi⟩ := h1
  have ha := advanceLead_bounds (P := P) (b := b1) (hs ▸ hi.spq) hl1 (by rw [hs, hq]; exact hi.l_q)
    (by rw [hst]; exact hi.l_step)
  have hpidx : (advanceLead P b1).L_PIDX = b1.L_PIDX := by rw [advanceLead_frame]
  rw [hf]
  exact ⟨hi.spq, hi.dtime, hs ▸ ha.1, ha.2, by simpa only [hpidx] using hpi, hi.b_q, hi.b_step, hi.b_ridx, hi.d_wcur, hi.memory, hi.below⟩

/-- Everything an answered SEQB did (R112). -/
theorem seqb_cases {P : Params ν} {b b' : Block ν} {e : BassEvent} (h : seqb P b = .ok (b', e)) :
    ∃ arp root, P.ARP[b.B_STEP % P.ARP_LEN]? = some arp ∧ P.BASS_ROOT[b.B_RIDX]? = some root
      ∧ b' = advanceBass P b ∧ e = { restruck := decide (b.B_Q = 0), note := arp + root + P.BASS_TRANSPOSE } := by
  unfold seqb at h
  cases ha : readArp P (b.B_STEP % P.ARP_LEN) with
  | error f => simp only [bind, Except.bind, ha] at h; cases h
  | ok arp =>
    cases hr : readBassRoot P b.B_RIDX with
    | error f => simp only [bind, Except.bind, ha, hr] at h; cases h
    | ok root =>
      simp only [bind, Except.bind, ha, hr] at h
      cases h
      exact ⟨arp, root, readTable_ok ha, readTable_ok hr, rfl, rfl⟩

/-- SEQB completes when its root index is in range (20_memory.md R51). -/
theorem seqb_completes {P : Params ν} (hP : P.wfSizes = true) {b : Block ν} (hr : b.B_RIDX < P.BASS_ROOT_LEN) :
    ∃ b' e, seqb P b = .ok (b', e) := by
  obtain ⟨-, ⟨-, -, -, ha, -, -⟩, ⟨-, -, hal, hrl⟩, -⟩ := (wfSizes_iff P).mp hP
  have h1 : b.B_STEP % P.ARP_LEN < P.ARP.length := by rw [hal]; exact Nat.mod_lt _ ha
  unfold seqb
  simp only [bind, Except.bind, readArp, readTable_of_lt Space.ARP h1, readBassRoot,
    readTable_of_lt Space.BASS_ROOT (hrl ▸ hr)]
  exact ⟨_, _, rfl⟩

/-- SEQB writes `B_Q`, `B_STEP`, `B_RIDX` and nothing else (R112). -/
theorem seqb_frame {P : Params ν} {b b' : Block ν} {e : BassEvent} (h : seqb P b = .ok (b', e)) :
    b' = { b with B_Q := b'.B_Q, B_STEP := b'.B_STEP, B_RIDX := b'.B_RIDX } := by
  obtain ⟨-, -, -, -, rfl, -⟩ := seqb_cases h
  exact advanceBass_frame P b

/-- SEQB keeps the invariant. -/
theorem seqb_inRange [DecidableEq ν] {P : Params ν} (hP : P.wfSizes = true) {b b' : Block ν} {e : BassEvent}
    (h : seqb P b = .ok (b', e)) (hi : b.InRange P) : b'.InRange P := by
  obtain ⟨-, ⟨-, -, hb1, -, -, hr1⟩, -, -⟩ := (wfSizes_iff P).mp hP
  obtain ⟨-, -, -, -, rfl, -⟩ := seqb_cases h
  have h1 : (advanceBass P b).B_Q < b.SPQ ∧ (advanceBass P b).B_STEP < P.BASS_STEPS
      ∧ (advanceBass P b).B_RIDX < P.BASS_ROOT_LEN := by
    have hq := hi.b_q
    unfold advanceBass
    split
    · refine ⟨hi.spq, addThenWrap_lt _ hb1, ?_⟩
      simp only
      split
      · exact addThenWrap_lt _ hr1
      · exact hi.b_ridx
    · exact ⟨by simp only; omega, hi.b_step, hi.b_ridx⟩
  rw [advanceBass_frame]
  exact ⟨hi.spq, hi.dtime, hi.l_q, hi.l_step, hi.l_pidx, h1.1, h1.2.1, h1.2.2, hi.d_wcur, hi.memory, hi.below⟩

/-! ## The voices -/

/-- The Lead voice after its sequencer writes `L_EACC`, `L_ESM`, `L_LFO`, `L_PH1`, `L_PH2` and nothing else (R130). -/
theorem leadVoice_frame (P : Params ν) (e : LeadEvent) (b : Block ν) :
    (leadVoice P e b).1 = { b with
      L_EACC := (leadVoice P e b).1.L_EACC, L_ESM := (leadVoice P e b).1.L_ESM, L_LFO := (leadVoice P e b).1.L_LFO
      L_PH1 := (leadVoice P e b).1.L_PH1, L_PH2 := (leadVoice P e b).1.L_PH2 } := rfl

/-- The Bass voice after its sequencer writes `B_ENV`, `B_LFO`, `B_PH1`, `B_PH2` and nothing else (R131). -/
theorem bassVoice_frame (P : Params ν) (e : BassEvent) (b : Block ν) :
    (bassVoice P e b).1 = { b with
      B_ENV := (bassVoice P e b).1.B_ENV, B_LFO := (bassVoice P e b).1.B_LFO
      B_PH1 := (bassVoice P e b).1.B_PH1, B_PH2 := (bassVoice P e b).1.B_PH2 } := rfl

/-- An answered LEAD is its sequencer and then its voice. -/
theorem lead_cases {P : Params ν} {b b' : Block ν} {x : ν} (h : lead P b = .ok (b', x)) :
    ∃ b1 e, seql P b = .ok (b1, e) ∧ b' = (leadVoice P e b1).1 ∧ x = (leadVoice P e b1).2 := by
  unfold lead at h
  cases hs : seql P b with
  | error f => simp only [bind, Except.bind, hs] at h; cases h
  | ok r =>
    simp only [bind, Except.bind, hs] at h
    cases h
    exact ⟨r.1, r.2, rfl, rfl, rfl⟩

theorem lead_of_seql {P : Params ν} {b b1 : Block ν} {e : LeadEvent} (h : seql P b = .ok (b1, e)) :
    lead P b = .ok (leadVoice P e b1) := by
  unfold lead
  simp only [bind, Except.bind, h]

/-- An answered BASS is its sequencer and then its voice. -/
theorem bass_cases {P : Params ν} {b b' : Block ν} {x : ν} (h : bass P b = .ok (b', x)) :
    ∃ b1 e, seqb P b = .ok (b1, e) ∧ b' = (bassVoice P e b1).1 ∧ x = (bassVoice P e b1).2 := by
  unfold bass at h
  cases hs : seqb P b with
  | error f => simp only [bind, Except.bind, hs] at h; cases h
  | ok r =>
    simp only [bind, Except.bind, hs] at h
    cases h
    exact ⟨r.1, r.2, rfl, rfl, rfl⟩

theorem bass_of_seqb {P : Params ν} {b b1 : Block ν} {e : BassEvent} (h : seqb P b = .ok (b1, e)) :
    bass P b = .ok (bassVoice P e b1) := by
  unfold bass
  simp only [bind, Except.bind, h]

/-- LEAD writes the Lead registers and nothing else (R130). -/
theorem lead_frame {P : Params ν} {b b' : Block ν} {x : ν} (h : lead P b = .ok (b', x)) :
    b' = { b with
      L_Q := b'.L_Q, L_STEP := b'.L_STEP, L_PIDX := b'.L_PIDX, L_ARMED := b'.L_ARMED, L_GATE := b'.L_GATE
      L_EACC := b'.L_EACC, L_ESM := b'.L_ESM, L_LFO := b'.L_LFO, L_PH1 := b'.L_PH1, L_PH2 := b'.L_PH2 } := by
  obtain ⟨b1, e, hs, rfl, -⟩ := lead_cases h
  rw [leadVoice_frame P e b1, seql_frame hs]

/-- BASS writes the Bass registers and nothing else (R131). -/
theorem bass_frame {P : Params ν} {b b' : Block ν} {x : ν} (h : bass P b = .ok (b', x)) :
    b' = { b with
      B_Q := b'.B_Q, B_STEP := b'.B_STEP, B_RIDX := b'.B_RIDX, B_ENV := b'.B_ENV, B_LFO := b'.B_LFO
      B_PH1 := b'.B_PH1, B_PH2 := b'.B_PH2 } := by
  obtain ⟨b1, e, hs, rfl, -⟩ := bass_cases h
  rw [bassVoice_frame P e b1, seqb_frame hs]

theorem lead_inRange [DecidableEq ν] {P : Params ν} (hP : P.wfSizes = true) {b b' : Block ν} {x : ν}
    (h : lead P b = .ok (b', x)) (hi : b.InRange P) : b'.InRange P := by
  obtain ⟨b1, e, hs, rfl, -⟩ := lead_cases h
  have h1 := seql_inRange hP hs hi
  rw [leadVoice_frame]
  exact ⟨h1.spq, h1.dtime, h1.l_q, h1.l_step, h1.l_pidx, h1.b_q, h1.b_step, h1.b_ridx, h1.d_wcur, h1.memory, h1.below⟩

theorem bass_inRange [DecidableEq ν] {P : Params ν} (hP : P.wfSizes = true) {b b' : Block ν} {x : ν}
    (h : bass P b = .ok (b', x)) (hi : b.InRange P) : b'.InRange P := by
  obtain ⟨b1, e, hs, rfl, -⟩ := bass_cases h
  have h1 := seqb_inRange hP hs hi
  rw [bassVoice_frame]
  exact ⟨h1.spq, h1.dtime, h1.l_q, h1.l_step, h1.l_pidx, h1.b_q, h1.b_step, h1.b_ridx, h1.d_wcur, h1.memory, h1.below⟩

/-! ## DLY and the schedule -/

/-- Everything an answered DLY did (45_delay.md R140). -/
theorem dly_cases [DecidableEq ν] {P : Params ν} {x y : ν} {b b' : Block ν} (h : dly P x b = .ok (b', y)) :
    delayTap P b < P.DELAY_CAP ∧ b.D_WCUR < P.DELAY_CAP ∧ y = b.DBUF.read P.NUMFMT.zero (delayTap P b)
      ∧ b' = { b with
          DBUF := b.DBUF.write P.NUMFMT.zero b.D_WCUR (P.NUMFMT.add x (P.NUMFMT.mul P.FB y))
          D_WCUR := addThenWrap b.D_WCUR P.DELAY_CAP } := by
  unfold dly readDbuf writeDbuf at h
  by_cases ht : delayTap P b < P.DELAY_CAP
  · by_cases hw : b.D_WCUR < P.DELAY_CAP
    · simp only [bind, Except.bind, if_pos ht, if_pos hw] at h
      cases h
      exact ⟨ht, hw, rfl, rfl⟩
    · simp only [bind, Except.bind, if_pos ht, if_neg hw] at h
      cases h
  · simp only [bind, Except.bind, if_neg ht] at h
    cases h

/-- DLY completes when its cursor is in range; the tap always is (20_memory.md R51). -/
theorem dly_completes [DecidableEq ν] {P : Params ν} (x : ν) {b : Block ν} (hw : b.D_WCUR < P.DELAY_CAP) :
    dly P x b = .ok
      ({ b with
          DBUF := b.DBUF.write P.NUMFMT.zero b.D_WCUR
            (P.NUMFMT.add x (P.NUMFMT.mul P.FB (b.DBUF.read P.NUMFMT.zero (delayTap P b))))
          D_WCUR := addThenWrap b.D_WCUR P.DELAY_CAP },
        b.DBUF.read P.NUMFMT.zero (delayTap P b)) := by
  have ht : delayTap P b < P.DELAY_CAP := delayTap_lt P b (by omega)
  unfold dly readDbuf writeDbuf
  simp only [bind, Except.bind, if_pos ht, if_pos hw]

theorem dly_inRange [DecidableEq ν] {P : Params ν} {x y : ν} {b b' : Block ν} (h : dly P x b = .ok (b', y))
    (hi : b.InRange P) : b'.InRange P := by
  obtain ⟨-, hw, -, rfl⟩ := dly_cases h
  exact ⟨hi.spq, hi.dtime, hi.l_q, hi.l_step, hi.l_pidx, hi.b_q, hi.b_step, hi.b_ridx, addThenWrap_lt _ (by omega),
    write_wf hi.memory _ _, write_below _ hw hi.below⟩

/-- Everything an answered schedule did (46_mixer_and_commands.md R152). -/
theorem schedule_cases [DecidableEq ν] {P : Params ν} {b b' : Block ν} {out : ν} (h : schedule P b = .ok (b', out)) :
    ∃ b1 xb b2 xl xd, bass P b = .ok (b1, xb) ∧ lead P b1 = .ok (b2, xl) ∧ dly P xl b2 = .ok (b', xd)
      ∧ out = mix P.NUMFMT xb xl xd := by
  unfold schedule at h
  cases hb : bass P b with
  | error f => simp only [bind, Except.bind, hb] at h; cases h
  | ok r1 =>
    cases hl : lead P r1.1 with
    | error f => simp only [bind, Except.bind, hb, hl] at h; cases h
    | ok r2 =>
      cases hd : dly P r2.2 r2.1 with
      | error f => simp only [bind, Except.bind, hb, hl, hd] at h; cases h
      | ok r3 =>
        simp only [bind, Except.bind, hb, hl, hd] at h
        cases h
        exact ⟨r1.1, r1.2, r2.1, r2.2, r3.2, rfl, hl, hd, rfl⟩

theorem schedule_of_slots [DecidableEq ν] {P : Params ν} {b b1 b2 b3 : Block ν} {xb xl xd : ν}
    (hb : bass P b = .ok (b1, xb)) (hl : lead P b1 = .ok (b2, xl)) (hd : dly P xl b2 = .ok (b3, xd)) :
    schedule P b = .ok (b3, mix P.NUMFMT xb xl xd) := by
  unfold schedule
  simp only [bind, Except.bind, hb, hl, hd]

/-- Under the invariant every slot of the schedule completes, and the invariant still holds after it. -/
theorem schedule_completes [DecidableEq ν] {P : Params ν} (hP : P.wfSizes = true) {b : Block ν} (hi : b.InRange P) :
    ∃ b1 xb b2 xl b3 xd, bass P b = .ok (b1, xb) ∧ lead P b1 = .ok (b2, xl) ∧ dly P xl b2 = .ok (b3, xd)
      ∧ b3.InRange P := by
  obtain ⟨c1, e1, h1⟩ := seqb_completes hP hi.b_ridx
  have hb := bass_of_seqb h1
  have i1 := bass_inRange hP hb hi
  obtain ⟨c2, e2, h2⟩ := seql_completes hP i1.l_step i1.l_pidx
  have hl := lead_of_seql h2
  have i2 := lead_inRange hP hl i1
  have hd := dly_completes (leadVoice P e2 c2).2 i2.d_wcur
  exact ⟨_, _, _, _, _, _, hb, hl, hd, dly_inRange hd i2⟩

/-- The schedule writes no control register. -/
theorem schedule_control [DecidableEq ν] {P : Params ν} {b b' : Block ν} {out : ν} (h : schedule P b = .ok (b', out)) :
    sameControl b' b := by
  obtain ⟨b1, xb, b2, xl, xd, hb, hl, hd, -⟩ := schedule_cases h
  obtain ⟨-, -, -, rfl⟩ := dly_cases hd
  have f1 := bass_frame hb
  have f2 := lead_frame hl
  rw [f1] at f2
  rw [f2]
  exact ⟨rfl, rfl, rfl, rfl, rfl, rfl⟩

/-- What a TICK can do, by mode. -/
theorem tick_cases [DecidableEq ν] {P : Params ν} {b b' : Block ν} {out : Option ν} (h : tick P b = .ok (b', out)) :
    (b.MODE = .unconfigured ∧ b' = raiseFault .tickUnconf b ∧ out = none)
      ∨ (b.MODE = .failed ∧ b' = b ∧ out = none)
      ∨ (b.MODE = .running ∧ ∃ b1 x, schedule P b = .ok (b1, x)
          ∧ ((P.NUMFMT.isFinite x = true ∧ b' = b1 ∧ out = some x)
            ∨ (P.NUMFMT.isFinite x = false ∧ b' = raiseFault .nonfinite b1 ∧ out = none))) := by
  unfold tick at h
  cases hm : b.MODE with
  | unconfigured => rw [hm] at h; cases h; exact .inl ⟨rfl, rfl, rfl⟩
  | failed => rw [hm] at h; cases h; exact .inr (.inl ⟨rfl, rfl, rfl⟩)
  | running =>
    rw [hm] at h
    cases hs : schedule P b with
    | error f => simp only [bind, Except.bind, hs] at h; cases h
    | ok r =>
      simp only [bind, Except.bind, hs] at h
      have he := Except.ok.inj h
      refine .inr (.inr ⟨rfl, r.1, r.2, rfl, ?_⟩)
      unfold emit at he
      split at he
      · rename_i hf; cases he; exact .inl ⟨hf, rfl, rfl⟩
      · rename_i hf
        have hf' : P.NUMFMT.isFinite r.2 = false := by simpa using hf
        cases he
        exact .inr ⟨hf', rfl, rfl⟩

theorem tick_running [DecidableEq ν] {P : Params ν} {b b1 : Block ν} {x : ν} (hm : b.MODE = .running)
    (hs : schedule P b = .ok (b1, x)) : tick P b = .ok (emit P b1 x) := by
  unfold tick
  rw [hm]
  simp only [bind, Except.bind, hs]

/-- Under the invariant a TICK completes in every mode and keeps the invariant. -/
theorem tick_completes [DecidableEq ν] {P : Params ν} (hP : P.wfSizes = true) {b : Block ν} (hi : b.InRange P) :
    ∃ b' out, tick P b = .ok (b', out) ∧ b'.InRange P := by
  cases hm : b.MODE with
  | unconfigured => exact ⟨_, _, by unfold tick; rw [hm], raiseFault_inRange _ hi⟩
  | failed => exact ⟨_, _, by unfold tick; rw [hm], hi⟩
  | running =>
    obtain ⟨b1, xb, b2, xl, b3, xd, hb, hl, hd, h3⟩ := schedule_completes hP hi
    refine ⟨(emit P b3 (mix P.NUMFMT xb xl xd)).1, (emit P b3 (mix P.NUMFMT xb xl xd)).2,
      tick_running hm (schedule_of_slots hb hl hd), ?_⟩
    unfold emit
    split
    · exact h3
    · exact raiseFault_inRange _ h3

end Sys2Proof.Machine
end

