-- ==== Sys2Proof/Laws/Step.lean ====
section
/-! SUPPORT. What a step can do, said once: by the word presented. -/

namespace Sys2Proof.Machine

/-- The words that decode to a host command. -/
theorem word_of_command (w : Opid) :
    (decode w = .ok .nop → w = 0x00) ∧ (decode w = .ok .reset → w = 0x01) ∧ (decode w = .ok .init → w = 0x02)
      ∧ (decode w = .ok .tick → w = 0x03) := by
  revert w; decide

/-- Every identifier but those of the four commands is an illegal command. -/
theorem exec_illegal {i : Instr} (h0 : i ≠ .nop) (h1 : i ≠ .reset) (h2 : i ≠ .init) (h3 : i ≠ .tick) (s : State) :
    exec i s = .next s.illegalCommand := by
  cases i <;> first | rfl | contradiction

/-- Every word but those of the four commands is an illegal command. -/
theorem step_illegal {s : State} {t : Transaction NumCode} {rest : List (Transaction NumCode)}
    (hp : s.pending = t :: rest) (h0 : t.cmd ≠ 0x00) (h1 : t.cmd ≠ 0x01) (h2 : t.cmd ≠ 0x02) (h3 : t.cmd ≠ 0x03) :
    step s = .next (s.present t rest).illegalCommand := by
  obtain ⟨d0, d1, d2, d3⟩ := word_of_command t.cmd
  unfold step
  rw [hp]
  simp only
  cases hd : decode t.cmd with
  | error e => rfl
  | ok i =>
    refine exec_illegal ?_ ?_ ?_ ?_ _ <;> rintro rfl
    · exact h0 (d0 hd)
    · exact h1 (d1 hd)
    · exact h2 (d2 hd)
    · exact h3 (d3 hd)

/-- The command a word of the four performs. -/
theorem step_command {s : State} {t : Transaction NumCode} {rest : List (Transaction NumCode)} {i : Instr}
    (hp : s.pending = t :: rest) (hd : decode t.cmd = .ok i) : step s = exec i (s.present t rest) := by
  unfold step
  rw [hp]
  simp only [hd]

/-- Everything a step with a transaction presented can do. -/
theorem step_cases {s u : State} {t : Transaction NumCode} {rest : List (Transaction NumCode)}
    (hp : s.pending = t :: rest) (h : step s = .next u) :
    (t.cmd = 0x00 ∧ u = (s.present t rest).complete s.block none)
      ∨ (t.cmd = 0x01 ∧ u = { (s.present t rest).complete (resetBlock params free s.freeIndex s.block) none with
            freeIndex := s.freeIndex + 1 })
      ∨ (t.cmd = 0x02 ∧ u = (s.present t rest).complete (init params free t.rate s.block) none)
      ∨ (t.cmd = 0x03 ∧ ∃ b out, tick params s.block = .ok (b, out) ∧ u = (s.present t rest).complete b out)
      ∨ (t.cmd ≠ 0x00 ∧ t.cmd ≠ 0x01 ∧ t.cmd ≠ 0x02 ∧ t.cmd ≠ 0x03 ∧ u = (s.present t rest).illegalCommand) := by
  by_cases h0 : t.cmd = 0x00
  · have hd : decode t.cmd = .ok .nop := by rw [h0]; decide
    rw [step_command hp hd] at h
    cases h
    exact .inl ⟨h0, rfl⟩
  by_cases h1 : t.cmd = 0x01
  · have hd : decode t.cmd = .ok .reset := by rw [h1]; decide
    rw [step_command hp hd] at h
    cases h
    exact .inr (.inl ⟨h1, rfl⟩)
  by_cases h2 : t.cmd = 0x02
  · have hd : decode t.cmd = .ok .init := by rw [h2]; decide
    rw [step_command hp hd] at h
    cases h
    exact .inr (.inr (.inl ⟨h2, rfl⟩))
  by_cases h3 : t.cmd = 0x03
  · have hd : decode t.cmd = .ok .tick := by rw [h3]; decide
    rw [step_command hp hd] at h
    refine .inr (.inr (.inr (.inl ⟨h3, ?_⟩)))
    simp only [exec, execTick, State.present_block] at h
    cases ht : tick params s.block with
    | error f => rw [ht] at h; cases h
    | ok r =>
      rw [ht] at h
      cases h
      exact ⟨r.1, r.2, rfl, rfl⟩
  · rw [step_illegal hp h0 h1 h2 h3] at h
    cases h
    exact .inr (.inr (.inr (.inr ⟨h0, h1, h2, h3, rfl⟩)))

end Sys2Proof.Machine
end

