-- ==== Sys2Proof/Laws/PerInstr.lean ====
section
/-! SUPPORT. Per identifier: its word is the class and the index that 30_encoding.md R76 assigns it, and only a class 0
identifier is a host command. -/

namespace Sys2Proof.Laws.ClassAndIndex

/-- The fields of the word of `i` are its class and its index (R75), and class 0 is the class of the commands. -/
def Statement (i : Instr) : Prop :=
  opidClass (encode i) = (classOf i).toNat ∧ opidIndex (encode i) = (indexOf i).toNat
    ∧ (opidClass (encode i) = 0 ↔ decodeCommand (encode i) ≠ .illegal)

theorem nop : Statement .nop := by
  refine ⟨?_, ?_, ?_⟩ <;> decide

theorem reset : Statement .reset := by
  refine ⟨?_, ?_, ?_⟩ <;> decide

theorem init : Statement .init := by
  refine ⟨?_, ?_, ?_⟩ <;> decide

theorem tick : Statement .tick := by
  refine ⟨?_, ?_, ?_⟩ <;> decide

theorem wrap1 : Statement .wrap1 := by
  refine ⟨?_, ?_, ?_⟩ <;> decide

theorem clamp : Statement .clamp := by
  refine ⟨?_, ?_, ?_⟩ <;> decide

theorem pdsaw : Statement .pdsaw := by
  refine ⟨?_, ?_, ?_⟩ <;> decide

theorem pwm : Statement .pwm := by
  refine ⟨?_, ?_, ?_⟩ <;> decide

theorem tri : Statement .tri := by
  refine ⟨?_, ?_, ?_⟩ <;> decide

theorem smooth : Statement .smooth := by
  refine ⟨?_, ?_, ?_⟩ <;> decide

theorem phadv : Statement .phadv := by
  refine ⟨?_, ?_, ?_⟩ <;> decide

theorem note2f : Statement .note2f := by
  refine ⟨?_, ?_, ?_⟩ <;> decide

theorem phinc : Statement .phinc := by
  refine ⟨?_, ?_, ?_⟩ <;> decide

theorem seql : Statement .seql := by
  refine ⟨?_, ?_, ?_⟩ <;> decide

theorem seqb : Statement .seqb := by
  refine ⟨?_, ?_, ?_⟩ <;> decide

theorem envl : Statement .envl := by
  refine ⟨?_, ?_, ?_⟩ <;> decide

theorem envb : Statement .envb := by
  refine ⟨?_, ?_, ?_⟩ <;> decide

theorem lead : Statement .lead := by
  refine ⟨?_, ?_, ?_⟩ <;> decide

theorem bass : Statement .bass := by
  refine ⟨?_, ?_, ?_⟩ <;> decide

theorem dly : Statement .dly := by
  refine ⟨?_, ?_, ?_⟩ <;> decide

theorem mix : Statement .mix := by
  refine ⟨?_, ?_, ?_⟩ <;> decide

end Sys2Proof.Laws.ClassAndIndex
end

