-- ==== Sys2Proof/Laws/Reference.lean ====
section
/-! SUPPORT. The reference instance, one lemma per function of NUMFMT: each is the operation of the real numbers. -/

namespace Sys2Proof.Reference

open Sys2Proof.Machine

@[simp] theorem numfmt_add (x y : ℝ) : numfmt.add x y = x + y := rfl
@[simp] theorem numfmt_sub (x y : ℝ) : numfmt.sub x y = x - y := rfl
@[simp] theorem numfmt_mul (x y : ℝ) : numfmt.mul x y = x * y := rfl
@[simp] theorem numfmt_div (x y : ℝ) : numfmt.div x y = x / y := rfl
@[simp] theorem numfmt_neg (x : ℝ) : numfmt.neg x = -x := rfl
@[simp] theorem numfmt_abs (x : ℝ) : numfmt.abs x = |x| := rfl
@[simp] theorem numfmt_min (x y : ℝ) : numfmt.min x y = min x y := rfl
@[simp] theorem numfmt_max (x y : ℝ) : numfmt.max x y = max x y := rfl
@[simp] theorem numfmt_floor (x : ℝ) : numfmt.floor x = ⌊x⌋ := rfl
@[simp] theorem numfmt_ofInt (n : Int) : numfmt.ofInt n = (n : ℝ) := rfl
@[simp] theorem numfmt_lt (x y : ℝ) : numfmt.lt x y = true ↔ x < y := decide_eq_true_iff
@[simp] theorem numfmt_le (x y : ℝ) : numfmt.le x y = true ↔ x ≤ y := decide_eq_true_iff
@[simp] theorem numfmt_eq (x y : ℝ) : numfmt.eq x y = true ↔ x = y := decide_eq_true_iff
@[simp] theorem numfmt_isFinite (x : ℝ) : numfmt.isFinite x = true := rfl
@[simp] theorem numfmt_cos2pi (x : ℝ) : numfmt.cos2pi x = Real.cos (2 * Real.pi * x) := rfl
@[simp] theorem numfmt_sin2pi (x : ℝ) : numfmt.sin2pi x = Real.sin (2 * Real.pi * x) := rfl
@[simp] theorem numfmt_exp2 (x : ℝ) : numfmt.exp2 x = (2 : ℝ) ^ x := rfl
@[simp] theorem decimal_numfmt (n d : Int) : decimal numfmt n d = (n : ℝ) / (d : ℝ) := rfl
@[simp] theorem wrap1_numfmt (x : ℝ) : wrap1 numfmt x = x - (⌊x⌋ : ℝ) := rfl
@[simp] theorem params_numfmt (o : OpenParams ℝ) : (params o).NUMFMT = numfmt := rfl

/-- The default parameters are well formed in the reference instance (00_scope.md R9). -/
theorem params_wf (o : OpenParams ℝ) : (params o).wf = true := by
  rw [Params.wf, Bool.and_eq_true]
  refine ⟨defaultParams_wfSizes _ _, ?_⟩
  simp only [Params.wfNums, Params.wfFeedback, Params.wfBounds, Bool.and_eq_true, params_numfmt, numfmt_le, numfmt_lt,
    numfmt_ofInt]
  simp only [params, defaultParams, decimal_numfmt]
  norm_num

end Sys2Proof.Reference
end

