-- ==== Sys2Proof/Laws/Watched.lean ====
section
/-! SUPPORT. Watched numbers follow the numbers they watch: each unit operation, and so a TICK, run on watched numbers
answers the values that it answers on the numbers themselves. -/

namespace Sys2Proof.Machine

variable {ν : Type}

@[simp] theorem result_value (F : NumFmt ν) (c : Bool) (r : ν) : (F.result c r).value = r := rfl
@[simp] theorem watch_value (F : NumFmt ν) (x : ν) : (F.watch x).value = x := rfl

/-- The block of the values, with the buffer `d`. -/
def Block.values (d : DelayMemory ν) (w : Block (Watched ν)) : Block ν where
  RATE := w.RATE.value
  T := w.T.value
  SPQ := w.SPQ
  DTIME := w.DTIME
  MODE := w.MODE
  CAUSE := w.CAUSE
  L_Q := w.L_Q
  L_STEP := w.L_STEP
  L_PIDX := w.L_PIDX
  L_ARMED := w.L_ARMED
  L_GATE := w.L_GATE
  L_EACC := w.L_EACC.value
  L_ESM := w.L_ESM.value
  L_LFO := w.L_LFO.value
  L_PH1 := w.L_PH1.value
  L_PH2 := w.L_PH2.value
  B_Q := w.B_Q
  B_STEP := w.B_STEP
  B_RIDX := w.B_RIDX
  B_ENV := w.B_ENV.value
  B_LFO := w.B_LFO.value
  B_PH1 := w.B_PH1.value
  B_PH2 := w.B_PH2.value
  D_WCUR := w.D_WCUR
  DBUF := d

/-! ## Waveforms and envelopes -/

theorem watched_ite (c : Bool) (x y : Watched ν) : (if c then x else y).value = if c then x.value else y.value := by
  cases c <;> rfl

theorem watched_pdsaw (P : Params ν) (x y : Watched ν) : (pdsaw P.watched x y).value = pdsaw P x.value y.value := by
  show P.NUMFMT.neg (P.NUMFMT.cos2pi (pdMap P.watched.NUMFMT x (clamp P.watched.NUMFMT y _ _)).value) = _
  rw [pdMap, watched_ite]
  rfl

theorem watched_envl (P : Params ν) (r g : Bool) (d : DelayMemory ν) (w : Block (Watched ν)) :
    envl P r g (w.values d) = ((envl P.watched r g w).1.values d, (envl P.watched r g w).2.value) := by
  cases r <;> cases g <;> rfl

theorem watched_envb (P : Params ν) (r : Bool) (d : DelayMemory ν) (w : Block (Watched ν)) :
    envb P r (w.values d) = ((envb P.watched r w).1.values d, (envb P.watched r w).2.value) := by
  cases r <;> rfl

/-! ## Sequencers -/

theorem watched_advanceLead (P : Params ν) (d : DelayMemory ν) (w : Block (Watched ν)) :
    advanceLead P (w.values d) = (advanceLead P.watched w).values d := by
  unfold advanceLead
  by_cases h : w.L_Q + 1 = w.SPQ
  · rw [if_pos h, if_pos (show (w.values d).L_Q + 1 = (w.values d).SPQ from h)]; rfl
  · rw [if_neg h, if_neg (show ¬ (w.values d).L_Q + 1 = (w.values d).SPQ from h)]; rfl

theorem watched_advanceBass (P : Params ν) (d : DelayMemory ν) (w : Block (Watched ν)) :
    advanceBass P (w.values d) = (advanceBass P.watched w).values d := by
  unfold advanceBass
  by_cases h : w.B_Q + 1 = w.SPQ
  · rw [if_pos h, if_pos (show (w.values d).B_Q + 1 = (w.values d).SPQ from h)]; rfl
  · rw [if_neg h, if_neg (show ¬ (w.values d).B_Q + 1 = (w.values d).SPQ from h)]; rfl

theorem watched_seql (P : Params ν) (d : DelayMemory ν) (w : Block (Watched ν)) :
    seql P (w.values d) = (seql P.watched w).map fun r => (r.1.values d, r.2) := by
  have trig : readLeadTrig P (w.values d).L_STEP = readLeadTrig P.watched w.L_STEP := rfl
  have bound (cell : Bit) : leadBoundary P cell (w.values d)
      = ((leadBoundary P.watched cell w).1.values d, (leadBoundary P.watched cell w).2) := rfl
  have pitch (v : Block (Watched ν)) : readLeadPitch P (v.values d).L_PIDX = readLeadPitch P.watched v.L_PIDX := rfl
  unfold seql
  by_cases h : w.L_Q = 0
  · rw [if_pos h, if_pos (show (w.values d).L_Q = 0 from h), trig]
    cases readLeadTrig P.watched w.L_STEP with
    | error f => rfl
    | ok cell =>
      simp only [bind, Except.bind, bound, pitch]
      cases readLeadPitch P.watched (leadBoundary P.watched cell w).1.L_PIDX with
      | error f => rfl
      | ok n => simp only [watched_advanceLead]; rfl
  · rw [if_neg h, if_neg (show ¬ (w.values d).L_Q = 0 from h)]
    simp only [bind, Except.bind, pitch]
    cases readLeadPitch P.watched w.L_PIDX with
    | error f => rfl
    | ok n => simp only [watched_advanceLead]; rfl

theorem watched_seqb (P : Params ν) (d : DelayMemory ν) (w : Block (Watched ν)) :
    seqb P (w.values d) = (seqb P.watched w).map fun r => (r.1.values d, r.2) := by
  have arp : readArp P ((w.values d).B_STEP % P.ARP_LEN) = readArp P.watched (w.B_STEP % P.watched.ARP_LEN) := rfl
  have root : readBassRoot P (w.values d).B_RIDX = readBassRoot P.watched w.B_RIDX := rfl
  unfold seqb
  simp only [bind, Except.bind, arp, root]
  cases readArp P.watched (w.B_STEP % P.watched.ARP_LEN) with
  | error f => rfl
  | ok a =>
    cases readBassRoot P.watched w.B_RIDX with
    | error f => rfl
    | ok r => simp only [watched_advanceBass]; rfl

/-! ## Voices -/

theorem watched_leadVoice (P : Params ν) (e : LeadEvent) (d : DelayMemory ν) (w : Block (Watched ν)) :
    leadVoice P e (w.values d) = ((leadVoice P.watched e w).1.values d, (leadVoice P.watched e w).2.value) := by
  simp only [leadVoice, watched_envl]
  refine Prod.ext rfl ?_
  show P.NUMFMT.add (P.NUMFMT.mul (P.NUMFMT.mul (pdsaw P _ _) _) _) (P.NUMFMT.mul (P.NUMFMT.mul (pdsaw P _ _) _) _)
    = P.NUMFMT.add (P.NUMFMT.mul (P.NUMFMT.mul (pdsaw P.watched _ _).value _) _)
      (P.NUMFMT.mul (P.NUMFMT.mul (pdsaw P.watched _ _).value _) _)
  rw [watched_pdsaw, watched_pdsaw]
  rfl

theorem watched_bassVoice (P : Params ν) (e : BassEvent) (d : DelayMemory ν) (w : Block (Watched ν)) :
    bassVoice P e (w.values d) = ((bassVoice P.watched e w).1.values d, (bassVoice P.watched e w).2.value) := by
  simp only [bassVoice, watched_envb]
  refine Prod.ext rfl ?_
  show P.NUMFMT.add _ (P.NUMFMT.mul (pdsaw P _ _) _) = P.NUMFMT.add _ (P.NUMFMT.mul (pdsaw P.watched _ _).value _)
  rw [watched_pdsaw]
  rfl

theorem watched_lead (P : Params ν) (d : DelayMemory ν) (w : Block (Watched ν)) :
    lead P (w.values d) = (lead P.watched w).map fun r => (r.1.values d, r.2.value) := by
  unfold lead
  rw [watched_seql]
  cases seql P.watched w with
  | error f => rfl
  | ok r => exact congrArg Except.ok (watched_leadVoice P r.2 d r.1)

theorem watched_bass (P : Params ν) (d : DelayMemory ν) (w : Block (Watched ν)) :
    bass P (w.values d) = (bass P.watched w).map fun r => (r.1.values d, r.2.value) := by
  unfold bass
  rw [watched_seqb]
  cases seqb P.watched w with
  | error f => rfl
  | ok r => exact congrArg Except.ok (watched_bassVoice P r.2 d r.1)

/-! ## Delay, schedule and TICK -/

variable [DecidableEq ν]

/-- The buffer `d` holds the values of the watched block's buffer, and both are in canonical form. -/
structure Follows (P : Params ν) (d : DelayMemory ν) (w : Block (Watched ν)) : Prop where
  cells : ∀ a, d.read P.NUMFMT.zero a = (w.DBUF.read P.watched.NUMFMT.zero a).value
  wf : Memory.wf P.NUMFMT.zero d = true
  watched_wf : Memory.wf P.watched.NUMFMT.zero w.DBUF = true

theorem watched_dly {P : Params ν} {x y : Watched ν} {d : DelayMemory ν} {w w' : Block (Watched ν)}
    (h : dly P.watched x w = .ok (w', y)) (hf : Follows P d w) :
    ∃ d', dly P x.value (w.values d) = .ok (w'.values d', y.value) ∧ Follows P d' w' := by
  obtain ⟨ht, hw, rfl, rfl⟩ := dly_cases h
  have hy := hf.cells (delayTap P.watched w)
  refine ⟨d.write P.NUMFMT.zero w.D_WCUR (P.NUMFMT.add x.value (P.NUMFMT.mul P.FB
      (w.DBUF.read P.watched.NUMFMT.zero (delayTap P.watched w)).value)), ?_, fun a => ?_, write_wf hf.wf _ _,
    write_wf hf.watched_wf _ _⟩
  · rw [dly_completes x.value (show (w.values d).D_WCUR < P.DELAY_CAP from hw), ← hy]
    rfl
  · by_cases ha : a = w.D_WCUR
    · subst ha
      show _ = (DelayMemory.read _ (DelayMemory.write _ w.DBUF w.D_WCUR _) w.D_WCUR).value
      rw [read_write_same hf.wf, read_write_same hf.watched_wf]
      rfl
    · show _ = (DelayMemory.read _ (DelayMemory.write _ w.DBUF w.D_WCUR _) a).value
      rw [read_write_other _ _ _ _ _ ha, read_write_other _ _ _ _ _ ha]
      exact hf.cells a

/-- A schedule that answers on watched numbers answers their values on the numbers themselves. -/
theorem watched_schedule {P : Params ν} {y : Watched ν} {d : DelayMemory ν} {w w' : Block (Watched ν)}
    (h : schedule P.watched w = .ok (w', y)) (hf : Follows P d w) :
    ∃ d', schedule P (w.values d) = .ok (w'.values d', y.value) ∧ Follows P d' w' := by
  obtain ⟨w1, xb, w2, xl, xd, hb, hl, hd, rfl⟩ := schedule_cases h
  have h1 : w1.DBUF = w.DBUF := by rw [bass_frame hb]
  have h2 : w2.DBUF = w.DBUF := by rw [lead_frame hl]; exact h1
  obtain ⟨d', hd', hf'⟩ := watched_dly hd ⟨h2 ▸ hf.cells, hf.wf, h2 ▸ hf.watched_wf⟩
  refine ⟨d', schedule_of_slots (b1 := w1.values d) (b2 := w2.values d) (xb := xb.value) (xl := xl.value) ?_ ?_ hd', hf'⟩
  · rw [watched_bass, hb]; rfl
  · rw [watched_lead, hl]; rfl

/-- A TICK that answers on watched numbers answers their values on the numbers themselves. -/
theorem watched_tick {P : Params ν} {out : Option (Watched ν)} {d : DelayMemory ν} {w w' : Block (Watched ν)}
    (h : tick P.watched w = .ok (w', out)) (hf : Follows P d w) :
    ∃ d', tick P (w.values d) = .ok (w'.values d', out.map (·.value)) ∧ Follows P d' w' := by
  rcases tick_cases h with ⟨hm, rfl, rfl⟩ | ⟨hm, rfl, rfl⟩ | ⟨hm, w1, x, hs, hc⟩
  · refine ⟨d, ?_, hf.cells, hf.wf, hf.watched_wf⟩
    unfold tick
    rw [show (w.values d).MODE = .unconfigured from hm]
    rfl
  · refine ⟨d, ?_, hf⟩
    unfold tick
    rw [show (w'.values d).MODE = .failed from hm]
    rfl
  · obtain ⟨d', hs', hf'⟩ := watched_schedule hs hf
    rw [tick_running (show (w.values d).MODE = .running from hm) hs']
    rcases hc with ⟨hx, rfl, rfl⟩ | ⟨hx, rfl, rfl⟩
    · refine ⟨d', ?_, hf'⟩
      have hx' : P.NUMFMT.isFinite x.value = true := hx
      rw [emit, if_pos hx']
      rfl
    · refine ⟨d', ?_, hf'.cells, hf'.wf, hf'.watched_wf⟩
      have hx' : P.NUMFMT.isFinite x.value = false := hx
      rw [emit, hx']
      rfl

end Sys2Proof.Machine
end

