-- ==== Sys2Proof/Tests/Slice0.lean ====
section
/-! SUPPORT. Tests of single operations against the numbers of 95_test_vectors.md, the refusals of the well-formedness
checks, the words of 30_encoding.md R75 and R76 written out bit by bit, and for each statement with hypotheses a named
witness that meets them. Nothing here is a claim. -/

namespace Sys2Proof.Tests

-- One declaration after another: the kernel evaluations below would otherwise hold a thread each at the same time.
set_option Elab.async false

open Sys2Proof Sys2Proof.Machine

/-! ## A number format to test with: rationals, the three functions rounded to 18 decimals -/

def rounded (x : Rat) : Rat := ((x * 1000000000000000000).floor : Rat) / 1000000000000000000

/-- `1 - y/(k+1)(k+2) + ...`, `fuel` terms of the cosine series from the power `k` on, in `y = x²`. -/
def cosineTail (y : Rat) : Nat → Nat → Rat
  | 0, _ => 1
  | fuel + 1, k => 1 - y / ((k + 1 : Nat) * (k + 2 : Nat)) * cosineTail y fuel (k + 2)

def cosine (turns : Rat) : Rat :=
  let x := 2 * (3141592653589793238462643383 / 1000000000000000000000000000) * (turns - turns.floor)
  rounded (cosineTail (rounded (x * x)) 25 0)

/-- `1 + x/(k+1) + ...`, `fuel` terms of the exponential series from the power `k` on. -/
def exponentialTail (x : Rat) : Nat → Nat → Rat
  | 0, _ => 1
  | fuel + 1, k => 1 + x / (k + 1 : Nat) * exponentialTail x fuel (k + 1)

def powerOfTwo (x : Rat) : Rat :=
  let n := x.floor
  let m := exponentialTail (rounded ((693147180559945309417232121 / 1000000000000000000000000000) * (x - n))) 20 0
  rounded (if 0 ≤ n then m * (2 ^ n.toNat : Nat) else m / (2 ^ (-n).toNat : Nat))

/-- Rational arithmetic; a number of size `10^30` or more plays the infinity that a binary format has. -/
def rational : NumFmt Rat where
  add x y := x + y
  sub x y := x - y
  mul x y := x * y
  div x y := x / y
  neg x := -x
  abs x := if 0 ≤ x then x else -x
  min x y := if x ≤ y then x else y
  max x y := if x ≤ y then y else x
  floor x := x.floor
  ofInt n := n
  lt x y := decide (x < y)
  le x y := decide (x ≤ y)
  eq x y := decide (x = y)
  isFinite x := decide (x < 10 ^ 30 ∧ -10 ^ 30 < x)
  cos2pi := cosine
  sin2pi x := cosine (x - 1 / 4)
  exp2 := powerOfTwo

/-- Configuration TC0 of 95_test_vectors.md section 1. -/
def tc0 : Params Rat := defaultParams rational
  { leadTrig := Vector.replicate 256 0, leadPitch := Vector.replicate 15 69, bassRootRest := Vector.replicate 7 0
    leadLfoHz := 5, bassLfoHz := 1 / 2, bassSubDuty := 1 / 2 }

/-- Configuration TC1 of 95_test_vectors.md section 1. -/
def tc1 : Params Rat := defaultParams rational
  { leadTrig := Vector.ofFn fun k => if k.val % 4 < 2 then 1 else 0
    leadPitch := Vector.ofFn fun i => 60 + (i.val : Int), bassRootRest := #v[3, 5, 7, 0, 3, 5, 7]
    leadLfoHz := 5, bassLfoHz := 1 / 2, bassSubDuty := 1 / 2 }

/-- Values for what the spec leaves unspecified, for the tests alone. -/
def someValues : FreeValues Rat where
  rate _ := 0
  period _ := 0
  spq _ := 0
  dtime _ := 0
  negativeDelay _ := 0

/-- The block after `INIT rate` from power-on. -/
def started (P : Params Rat) (rate : Rat) : Block Rat := init P someValues rate (powerOn P.NUMFMT)

/-- `x` and `y` differ by less than `10^-8` (95_test_vectors.md gives nine digits). -/
def near (x y : Rat) : Bool := decide (x - y < 1 / 100000000 ∧ y - x < 1 / 100000000)

/-- Mode and cause as the outputs show them. -/
def modeCause (b : Block Rat) : Nat × Nat := (b.MODE.bits.toNat, b.CAUSE.bits.toNat)

/-- The answer of an operation under a test, false where it is stuck. -/
def answer {α : Type} (r : Except Fault α) (test : α → Bool) : Bool :=
  match r with
  | .ok x => test x
  | .error _ => false

/-- The state after a step under a test, false where there is none. -/
def after (r : Host.Outcome State Fault Refusal) (test : State → Bool) : Bool :=
  match r with
  | .next t => test t
  | .fault _ => false
  | .refused _ => false

/-! ## The operations, on the spec's vectors -/

theorem test_wrap1 : [0, 1, 5 / 4, 13, -1 / 4, -11 / 4].map (wrap1 rational) = [0, 0, 1 / 4, 0, 3 / 4, 1 / 4] := by
  decide +kernel

theorem test_clamp_low : clamp rational 0 (1 / 1000) (999 / 1000) = 1 / 1000 := by decide +kernel
theorem test_clamp_high : clamp rational (6 / 5) 0 1 = 1 := by decide +kernel

theorem test_pdsaw_first_segment : near (pdsaw tc0 (1 / 10) (9 / 10)) (-939692621 / 1000000000) = true := by
  decide +kernel
theorem test_pdsaw_clamped_duty : near (pdsaw tc0 (2 / 10) (-3)) (810493177 / 1000000000) = true := by decide +kernel

theorem test_pwm_edge : pwm tc0 (74 / 100) (1 / 4) = -1 ∧ pwm tc0 (75 / 100) (1 / 4) = 1 := by decide +kernel
theorem test_pwm_clamped_width : pwm tc0 (995 / 1000) 0 = 1 ∧ pwm tc0 (5 / 1000) 1 = -1 := by decide +kernel

theorem test_tri : [0, 1 / 10, 1 / 2, 3 / 4].map (tri rational) = [0, 1 / 5, 1, 1 / 2] := by decide +kernel

theorem test_smooth : smooth tc0 (199 / 10000) 1 = 29701 / 1000000 ∧ smooth tc0 1 0 = 99 / 100 := by decide +kernel

theorem test_phadv_wraps :
    (phadv rational .B_PH1 (1 / 2) { started tc0 44100 with B_PH1 := 3 / 4 }).2 = 1 / 4 := by decide +kernel
theorem test_phadv_negative :
    (phadv rational .L_PH2 (-3 / 10) { started tc0 44100 with L_PH2 := 1 / 10 }).1.L_PH2 = 8 / 10 := by decide +kernel

theorem test_note2f : note2f tc0 69 = 440 ∧ near (note2f tc0 47) (123470825311 / 1000000000) = true := by decide +kernel

theorem test_phinc : near (phinc rational (started tc0 44100) 110) (2494331 / 1000000000) = true := by decide +kernel

/-- The rows of ticks 0 and 8 of section 3.3, and the pitch index wrap: cell 1 and armed. -/
theorem test_seql_restrike :
    answer (seql tc1 { started tc1 18 with L_PIDX := 14 }) (fun r =>
      r.2.restruck && r.2.note == 60 && !r.2.gate && r.1.L_PIDX == 0 && !r.1.L_ARMED && r.1.L_Q == 1) = true := by
  decide +kernel
/-- Tick 511: the gate answered is the one before the wrap that opens it. -/
theorem test_seql_gate_opens :
    answer (seql tc1 { started tc1 18 with L_Q := 1, L_STEP := 255 }) (fun r =>
      !r.2.restruck && !r.2.gate && r.1.L_GATE && r.1.L_STEP == 0 && r.1.L_Q == 0) = true := by decide +kernel

/-- Tick 34 of the SEQB rows. -/
theorem test_seqb_note :
    answer (seqb tc1 { started tc1 9 with B_STEP := 2, B_RIDX := 1 }) (fun r =>
      r.2.restruck && r.2.note == 50 && r.1.B_STEP == 3 && r.1.B_RIDX == 1) = true := by decide +kernel
/-- Tick 255 of the SEQB rows: step and root index wrap together. -/
theorem test_seqb_wraps :
    answer (seqb tc1 { started tc1 9 with B_STEP := 31, B_RIDX := 7 }) (fun r =>
      r.2.note == 55 && r.1.B_STEP == 0 && r.1.B_RIDX == 0) = true := by decide +kernel

/-- Restrike from saturation. -/
theorem test_envl_restrike :
    near (envl tc0 true true { started tc0 44100 with L_EACC := 1, L_ESM := 1 }).2 (990000907 / 1000000000) = true := by
  decide +kernel
/-- At rate 9 the third tick is clamped; a closed gate answers 0. -/
theorem test_envl_clamps :
    (envl tc0 false false { started tc0 9 with L_EACC := 8 / 9 }).1.L_EACC = 1
      ∧ (envl tc0 false false { started tc0 9 with L_EACC := 8 / 9 }).2 = 0 := by decide +kernel

theorem test_envb_before_decrement :
    (envb tc0 false { started tc0 18 with B_ENV := 1 / 2 }).2 = 1 / 2
      ∧ (envb tc0 false { started tc0 18 with B_ENV := 1 / 2 }).1.B_ENV = 0 := by decide +kernel
theorem test_envb_restrike : (envb tc0 true { started tc0 18 with B_ENV := 0 }).1.B_ENV = 1 / 2 := by decide +kernel

/-- "LEAD in sustain with full vibrato" of section 3.5. -/
theorem test_lead_sustain :
    answer (lead tc0 { started tc0 44100 with
        L_GATE := true, L_Q := 1, L_EACC := 1, L_ESM := 1, L_LFO := 1 / 4 - 5 / 44100
        L_PH1 := 44 / 100, L_PH2 := 2 / 10 })
      (fun r => near r.2 (-112226193 / 1000000000) && near r.1.L_PH1 (450035122 / 1000000000)) = true := by
  decide +kernel
/-- "LEAD muted": the output is 0 and the phases advance. -/
theorem test_lead_muted :
    answer (lead tc0 (started tc0 44100)) (fun r => r.2 == 0 && near r.1.L_PH2 (100351223 / 10000000000)) = true := by
  decide +kernel

/-- "BASS mid-quantum" of section 3.5. -/
theorem test_bass_mid_quantum :
    answer (bass tc0 { started tc0 44100 with
        B_Q := 100, B_STEP := 2, B_ENV := 1 / 2, B_LFO := 1 / 4 - 1 / 88200, B_PH1 := 6 / 10, B_PH2 := 3 / 10 })
      (fun r => near r.2 (245211072 / 1000000000) && r.1.B_Q == 101) = true := by decide +kernel

/-- Ticks 3 and 8 of section 3.6: `DELAY_CAP = 8`, `DTIME = 3`, `FB = 0.5`. -/
theorem test_dly_echo :
    answer (dly { tc0 with DELAY_CAP := 8, FB := 1 / 2 } 0 { started tc0 9 with D_WCUR := 3, DBUF := [(0, 1)] })
      (fun r => r.2 == 1 && r.1.DBUF == [(0, 1), (3, 1 / 2)] && r.1.D_WCUR == 4) = true := by decide +kernel
theorem test_dly_overwrites_with_zero :
    answer (dly { tc0 with DELAY_CAP := 8, FB := 1 / 2 } 0 { started tc0 9 with D_WCUR := 0, DBUF := [(0, 1)] })
      (fun r => r.2 == 0 && r.1.DBUF == []) = true := by decide +kernel

theorem test_mix : mix rational (-6 / 10) (2 / 10) (5 / 100) = -35 / 100 := by decide +kernel

/-- The V-INIT rows at the edges of what INIT accepts. -/
theorem test_init_accepts :
    [9, 997236 / 10, 44100].map (fun r => (modeCause (started tc0 r), (started tc0 r).SPQ, (started tc0 r).DTIME))
      = [((1, 0), 1, 3), ((1, 0), 11080, 44099), ((1, 0), 4900, 19502)] := by decide +kernel
theorem test_init_refuses :
    [8999 / 1000, 0, -1, 10 ^ 40, 997237 / 10].map (fun r => modeCause (started tc0 r))
      = [(2, 2), (2, 1), (2, 1), (2, 1), (2, 3)] := by decide +kernel

/-- The first sample at 44100 Hz (program P1, line 9). -/
theorem test_tick_first_sample :
    answer (tick tc0 (started tc0 44100)) (fun r => r.2.any fun y => near y (-599990789 / 1000000000)) = true := by
  decide +kernel
/-- NONFINITE keeps what the schedule wrote: a non-finite phase reaches the sample through an overflowing gain. -/
theorem test_tick_nonfinite :
    answer (tick { tc0 with BASS_GAIN := 10 ^ 40 } (started tc0 44100)) (fun r =>
      r.2.isNone && modeCause r.1 == (2, 6) && r.1.B_Q == 1 && r.1.D_WCUR == 1) = true := by decide +kernel

/-! ## The machine at its ports: the mode transitions of section 3.7 that no number decides -/

theorem test_step_nop : after (step (State.reset.withFetchWord 8 0x00)) (fun t =>
    t.modePort == 0 && t.causePort == 0 && !t.sampleValid) = true := by decide
theorem test_step_tick_unconfigured : after (step (State.reset.withFetchWord 8 0x03)) (fun t =>
    t.modePort == 2 && t.causePort == 4 && !t.sampleValid) = true := by decide
theorem test_step_unit_identifier : after (step (State.reset.withFetchWord 8 0x50)) (fun t =>
    t.modePort == 2 && t.causePort == 5 && !t.sampleValid) = true := by decide
theorem test_step_unassigned_class : after (step (State.reset.withFetchWord 8 0xFF)) (fun t =>
    t.modePort == 2 && t.causePort == 5) = true := by decide

/-- A failed machine, cause CFG_DELAY, as after line 1 of program P1. -/
def failedState : State := { State.reset with block := { State.reset.block with MODE := .failed, CAUSE := .cfgDelay } }

theorem test_step_first_cause_kept : after (step (failedState.withFetchWord 8 0x04)) (fun t =>
    t.modePort == 2 && t.causePort == 3) = true := by decide
theorem test_step_init_refused : after (step (failedState.withFetchWord 8 0x02)) (fun t =>
    t.modePort == 2 && t.causePort == 3) = true := by decide
theorem test_step_reset_recovers : after (step (failedState.withFetchWord 8 0x01)) (fun t =>
    t.modePort == 0 && t.causePort == 0 && t.pending.isEmpty) = true := by decide

/-! ## Well-formedness: the two configurations pass, and each check refuses -/

theorem test_wf_tc0 : tc0.wf = true := by decide +kernel
theorem test_wf_tc1 : tc1.wf = true := by decide +kernel
theorem smoke_wfClock : Params.wfClock { tc0 with CLOCK := 0 } = false := by decide +kernel
theorem smoke_wfModuli : Params.wfModuli { tc0 with DELAY_CAP := 0 } = false := by decide +kernel
theorem smoke_wfTables : Params.wfTables { tc0 with ARP := [57, 57, 59] } = false := by decide +kernel
theorem smoke_wfRoot : Params.wfRoot { tc0 with BASS_ROOT := [1, 0, 0, 0, 0, 0, 0, 0] } = false := by decide +kernel
theorem smoke_wfSizes : Params.wfSizes { tc0 with LEAD_STEPS := 255 } = false := by decide +kernel
theorem smoke_wfFeedback : Params.wfFeedback { tc0 with FB := 1 } = false := by decide +kernel
theorem smoke_wfBounds : tc0.wfBounds (99 / 100) (1 / 100) = false ∧ tc0.wfBounds 0 (1 / 2) = false := by decide +kernel
theorem smoke_wfNums : Params.wfNums { tc0 with PW_HI := 1 } = false := by decide +kernel
theorem smoke_wf : Params.wf { tc0 with PD_LO := 0 } = false := by decide +kernel
/-- An LFO rate of 0, one below 0 and one that is not finite, and a duty that is not finite (table 4b). -/
theorem smoke_wfOpen : tc0.wfOpen = true
    ∧ Params.wfOpen { tc0 with LEAD_LFO_HZ := 0 } = false ∧ Params.wfOpen { tc0 with BASS_LFO_HZ := -1 } = false
    ∧ Params.wfOpen { tc0 with BASS_LFO_HZ := 10 ^ 30 } = false
    ∧ Params.wfOpen { tc0 with BASS_SUB_DUTY := 10 ^ 30 } = false := by decide +kernel
theorem smoke_wfLfo : tc0.wfLfo 0 = false ∧ tc0.wfLfo (1 / 2) = true := by decide +kernel
theorem smoke_transaction : Transaction.wf { cmd := 0x50, rate := (0 : Rat) } = false
    ∧ Transaction.wf { cmd := 0x03, rate := (0 : Rat) } = true := by decide +kernel

/-! ## Decoding: class in bits 7:4, index in bits 3:0, every word written out from R75 and R76 -/

theorem test_decode_command : decode 0b0000_0000#8 = .ok .nop ∧ decode 0b0000_0001#8 = .ok .reset
    ∧ decode 0b0000_0010#8 = .ok .init ∧ decode 0b0000_0011#8 = .ok .tick := by decide
theorem test_decode_waveform : decode 0b0001_0000#8 = .ok .wrap1 ∧ decode 0b0001_0001#8 = .ok .clamp
    ∧ decode 0b0001_0010#8 = .ok .pdsaw ∧ decode 0b0001_0011#8 = .ok .pwm ∧ decode 0b0001_0100#8 = .ok .tri
    ∧ decode 0b0001_0101#8 = .ok .smooth := by decide
theorem test_decode_phase : decode 0b0010_0000#8 = .ok .phadv ∧ decode 0b0010_0001#8 = .ok .note2f
    ∧ decode 0b0010_0010#8 = .ok .phinc := by decide
theorem test_decode_sequencer : decode 0b0011_0000#8 = .ok .seql ∧ decode 0b0011_0001#8 = .ok .seqb := by decide
theorem test_decode_envelope : decode 0b0100_0000#8 = .ok .envl ∧ decode 0b0100_0001#8 = .ok .envb := by decide
theorem test_decode_voice : decode 0b0101_0000#8 = .ok .lead ∧ decode 0b0101_0001#8 = .ok .bass := by decide
theorem test_decode_delay_and_mixer : decode 0b0110_0000#8 = .ok .dly ∧ decode 0b0111_0000#8 = .ok .mix := by decide
theorem test_decode_rejects : decode 0b0000_0100#8 = .error .unassignedIndex
    ∧ decode 0b0001_0110#8 = .error .unassignedIndex ∧ decode 0b0111_0001#8 = .error .unassignedIndex
    ∧ decode 0b1000_0000#8 = .error .unassignedClass ∧ decode 0b1111_1111#8 = .error .unassignedClass := by decide
theorem test_table_word : decodeTableWord 8 0x22 = some .phinc ∧ decodeTableWord 8 0x80 = none
    ∧ decodeTableWord 16 0x22 = none ∧ decodeTableWord 8 0x122 = none := by decide

/-! ## Witnesses: states and operands that meet the hypotheses of each statement together -/

/-- The number on the `rate` port of the witnesses. -/
def someRate : NumCode := { code := 0 }

/-- The machine `s` with the word `w` presented. -/
def presenting (w : Opid) (s : State) : State := { s with pending := [{ cmd := w, rate := someRate }] }

/-- A running machine, every register at its reset value and `SPQ = 1`. -/
def runningState : State := { State.reset with block := { State.reset.block with MODE := .running } }

theorem runningState_inRange : runningState.InRange := by
  constructor <;> first | rfl | (show (_ : Nat) < _; decide)

/-- The slots of a TICK in `runningState` complete. -/
theorem runningState_slots : ∃ b1 xb b2 xl b3 xd, bass params runningState.block = .ok (b1, xb)
    ∧ lead params b1 = .ok (b2, xl) ∧ dly params xl b2 = .ok (b3, xd) ∧ b3.InRange params :=
  schedule_completes params_wfSizes runningState_inRange

theorem witness_DecodeEncodeAgree : Instr.mix.wf = true ∧ decode 0x70 = .ok .mix := by decide

theorem witness_StepPerformsNextCommand :
    (presenting 0x70 State.reset).pending = [{ cmd := 0x70, rate := someRate }] ∧ decode 0x70 = .ok .mix
      ∧ State.reset.pending = [] := by decide

/-- The lowest and the highest illegal word. -/
theorem witness_IllegalCommandFaults :
    (presenting 0x04 State.reset).pending = [{ cmd := 0x04, rate := someRate }]
      ∧ (0x04 : Opid) ≠ 0x00 ∧ (0x04 : Opid) ≠ 0x01 ∧ (0x04 : Opid) ≠ 0x02 ∧ (0x04 : Opid) ≠ 0x03
      ∧ (presenting 0xFF failedState).pending = [{ cmd := 0xFF, rate := someRate }]
      ∧ (0xFF : Opid) ≠ 0x00 ∧ (0xFF : Opid) ≠ 0x01 ∧ (0xFF : Opid) ≠ 0x02 ∧ (0xFF : Opid) ≠ 0x03 := by decide

/-- One word of each clause. -/
theorem witness_FailedIsSticky :
    (presenting 0x02 failedState).pending = [{ cmd := 0x02, rate := someRate }] ∧ failedState.block.MODE = .failed
      ∧ (0x02 : Opid) ≠ 0x01 ∧ (presenting 0x01 failedState).pending = [{ cmd := 0x01, rate := someRate }] := by decide

/-- NOP in RUNNING and in UNCONFIGURED: one witness for each side of the equivalences. -/
theorem witness_LifecycleModes :
    (∃ u, step (presenting 0x00 runningState) = .next u ∧ u.block.MODE = .running)
      ∧ (∃ u, step (presenting 0x00 State.reset) = .next u ∧ u.block.MODE = .unconfigured)
      ∧ (∃ u, step (presenting 0x01 failedState) = .next u ∧ u.block.MODE = .unconfigured)
      ∧ ∃ u, step (presenting 0x03 State.reset) = .next u ∧ u.block.MODE = .failed :=
  ⟨⟨_, rfl, rfl⟩, ⟨_, rfl, rfl⟩, ⟨_, rfl, rfl⟩, ⟨_, rfl, rfl⟩⟩

theorem witness_SampleValidExactlyAfterTick : ∃ u, step (presenting 0x03 runningState) = .next u := by
  obtain ⟨b, out, ht, -⟩ := tick_completes params_wfSizes runningState_inRange
  refine ⟨(presenting 0x03 runningState).present { cmd := 0x03, rate := someRate } [] |>.complete b out, ?_⟩
  rw [step_command (i := .tick) rfl (show decode 0x03 = .ok .tick by decide)]
  have hp : ((presenting 0x03 runningState).present { cmd := 0x03, rate := someRate } []).block
      = runningState.block := rfl
  simp only [exec, execTick, hp, ht]

theorem witness_FaultsArePrecise : ∃ u, step (presenting 0x03 State.reset) = .next u
    ∧ State.reset.block.MODE ≠ .failed ∧ u.block.MODE = .failed ∧ u.block.CAUSE ≠ .nonfinite :=
  ⟨_, rfl, by decide, rfl, by decide⟩

theorem witness_DerivedRegistersWrittenByInit : ∃ u, step (presenting 0x02 failedState) = .next u
    ∧ (0x02 : Opid) ≠ 0x01 ∧ u.block.MODE ≠ .running :=
  ⟨_, rfl, by decide, by decide⟩

/-- RESET clears an open gate. -/
theorem witness_GateIsNeverCleared :
    let s : State := { runningState with block := { runningState.block with L_GATE := true } }
    s.block.L_GATE = true ∧ ∃ u, step (presenting 0x01 s) = .next u ∧ u.block.L_GATE = false :=
  ⟨rfl, _, rfl, rfl⟩

theorem witness_NopChangesNothing : ∃ u, exec .nop runningState = .next u := ⟨_, rfl⟩

/-- One rate for each clause of INIT, at the edges: 0, just below 9, 9, and both sides of the delay's capacity. -/
theorem witness_InitCommand :
    (powerOn rational).MODE ≠ .failed
      ∧ ¬ (rational.isFinite 0 = true ∧ rational.lt (rational.ofInt 0) 0 = true)
      ∧ spqOf tc0 (8999 / 1000) < 1 ∧ 1 ≤ spqOf tc0 9 ∧ dtimeOf tc0 9 < (tc0.DELAY_CAP : Int) ∧ 0 ≤ dtimeOf tc0 9
      ∧ dtimeOf tc0 (997236 / 10) < (tc0.DELAY_CAP : Int) ∧ (tc0.DELAY_CAP : Int) ≤ dtimeOf tc0 (997237 / 10)
      ∧ rational.isFinite 9 = true ∧ rational.lt (rational.ofInt 0) 9 = true
      ∧ (raiseFault .illCmd (powerOn rational)).MODE = .failed := by decide +kernel

/-- The second block of the two is not the first. -/
theorem witness_InitForgetsHistory :
    (powerOn rational).MODE ≠ .failed ∧ (started tc0 48000).MODE ≠ .failed ∧ powerOn rational ≠ started tc0 48000
      ∧ initCheck tc0 44100 = .none := by decide +kernel

/-- Open parameters over the reals. -/
noncomputable def someOpen : OpenParams ℝ where
  leadTrig := Vector.replicate 256 0
  leadPitch := Vector.replicate 15 69
  bassRootRest := Vector.replicate 7 0
  leadLfoHz := 5
  bassLfoHz := 1 / 2
  bassSubDuty := 1 / 2

theorem witness_SupportedRates : (Reference.params someOpen).NUMFMT = Reference.numfmt
    ∧ 1 ≤ (Reference.params someOpen).CLOCK ∧ (powerOn Reference.numfmt).MODE ≠ .failed :=
  ⟨rfl, by decide, by show Mode.unconfigured ≠ .failed; decide⟩

/-- One state for each clause. -/
theorem witness_TickCommand : State.reset.block.MODE = .unconfigured ∧ failedState.block.MODE = .failed
    ∧ runningState.block.MODE = .running
    ∧ ∃ b1 b2 b3 xb xl xd, bass params runningState.block = .ok (b1, xb) ∧ lead params b1 = .ok (b2, xl)
        ∧ dly params xl b2 = .ok (b3, xd) := by
  obtain ⟨b1, xb, b2, xl, b3, xd, hb, hl, hd, -⟩ := runningState_slots
  exact ⟨rfl, rfl, rfl, b1, b2, b3, xb, xl, xd, hb, hl, hd⟩

theorem witness_TickCompletes : runningState.block.MODE = .running ∧ runningState.InRange :=
  ⟨rfl, runningState_inRange⟩

theorem witness_TickFrame : runningState.block.MODE = .running ∧ (∃ t, exec .tick runningState = .next t)
    ∧ Memory.wf params.NUMFMT.zero runningState.block.DBUF = true ∧ (1 : Nat) ≠ runningState.block.D_WCUR := by
  obtain ⟨b, out, ht, -⟩ := tick_completes params_wfSizes runningState_inRange
  refine ⟨rfl, ⟨runningState.complete b out, ?_⟩, rfl, by decide⟩
  simp only [exec, execTick, ht]

/-- One state for each clause, at the least index outside its space. -/
theorem witness_OutOfRangeReadIsStuck :
    let b := runningState.block
    b.MODE = .running ∧ 8 ≤ ({ b with B_RIDX := 8 } : Block NumCode).B_RIDX
      ∧ (let c := { b with L_STEP := 256 }; c.B_RIDX < 8 ∧ c.L_Q = 0 ∧ 256 ≤ c.L_STEP)
      ∧ (let c := { b with L_Q := 1, L_PIDX := 15 }; c.B_RIDX < 8 ∧ c.L_Q ≠ 0 ∧ 15 ≤ c.L_PIDX)
      ∧ (let c := { b with L_PIDX := 15, L_STEP := 255, L_ARMED := false };
          c.B_RIDX < 8 ∧ c.L_Q = 0 ∧ c.L_STEP < 256 ∧ 15 ≤ c.L_PIDX ∧ c.L_ARMED = false)
      ∧ (let c := { b with D_WCUR := 44100 };
          c.B_RIDX < 8 ∧ c.L_STEP < 256 ∧ c.L_PIDX < 15 ∧ 44100 ≤ c.D_WCUR) := by decide

theorem witness_ClampsToClosedInterval : (0 : ℝ) ≤ 1 ∧ (-3 : ℝ) ≤ 0 ∧ (1 : ℝ) ≤ 6 / 5 := by norm_num

theorem witness_PhaseDistortionSawtooth : (Reference.params someOpen).NUMFMT = Reference.numfmt
    ∧ (Reference.params someOpen).wf = true :=
  ⟨rfl, Reference.params_wf _⟩

/-- Phases on both sides of the edge `1 - w` at the narrowest width, with the parameters of the witness above. -/
theorem witness_PulseWidthWave : (0 : ℝ) ≤ 989 / 1000 ∧ (989 / 1000 : ℝ) < 1
    ∧ (989 / 1000 : ℝ) < 1 - min (max 0 (1 / 100)) (99 / 100) ∧ 1 - min (max 0 (1 / 100)) (99 / 100) ≤ (995 / 1000 : ℝ)
    ∧ (995 / 1000 : ℝ) < 1 := by norm_num

/-- Both ends of the rise and of the fall. -/
theorem witness_TriangleIsUnipolar : (0 : ℝ) ≤ 0 ∧ (0 : ℝ) < 1 ∧ (0 : ℝ) ≤ 0.5 ∧ (0.5 : ℝ) ≤ 0.5 ∧ (0.5 : ℝ) ≤ 0.75 := by
  norm_num

theorem witness_PhaseAdvance : Wrap1Range Reference.numfmt
    ∧ Reference.numfmt.isFinite (Reference.numfmt.add (1 / 2) 12) = true ∧ Register.L_PH1 ≠ PhaseReg.B_PH2.register := by
  refine ⟨fun x _ => ?_, rfl, by decide⟩
  have h0 := Int.floor_le x
  have h1 := Int.lt_floor_add_one x
  rw [Reference.numfmt_le, Reference.numfmt_lt, Reference.wrap1_numfmt]
  simp only [Reference.numfmt_ofInt]
  push_cast
  constructor <;> linarith

theorem witness_IncrementIsFrequencyTimesPeriod :
    (powerOn rational).MODE ≠ .failed ∧ initCheck tc0 9 = .none := by decide +kernel

/-- Both indexes at their last value. -/
theorem witness_LeadSequencerStep :
    let b := { started tc1 18 with L_STEP := 255, L_PIDX := 14 }
    tc1.wfSizes = true ∧ b.L_STEP < tc1.LEAD_STEPS ∧ b.L_PIDX < tc1.LEAD_PITCH_LEN := by decide +kernel

/-- A freshly configured block is at its reset values; the least `SPQ`. -/
theorem witness_LeadGateOpensAfterFirstPass :
    tc1.wfSizes = true ∧ (started tc1 9).AtReset tc1.NUMFMT ∧ 1 ≤ (started tc1 9).SPQ := by
  refine ⟨by decide +kernel, ?_, by decide +kernel⟩
  have h : started tc1 9 = configured tc1 someValues 9 (powerOn tc1.NUMFMT) := by decide +kernel
  rw [h]
  constructor <;> first | rfl | exact fun _ => rfl

theorem witness_BassSequencerStep :
    tc1.wfSizes = true ∧ ({ started tc1 9 with B_RIDX := 7 } : Block Rat).B_RIDX < tc1.BASS_ROOT_LEN := by
  decide +kernel

theorem witness_BassRootAdvancesOncePerPass :
    tc1.wfSizes = true ∧ (started tc1 9).AtReset tc1.NUMFMT ∧ 1 ≤ (started tc1 9).SPQ :=
  witness_LeadGateOpensAfterFirstPass

/-- A format in which `zero_mul` holds, a finite value and a closed gate. -/
theorem witness_LeadEnvelopeStep : ZeroMul Reference.numfmt
    ∧ Reference.numfmt.isFinite (envl (Reference.params someOpen) true false (powerOn Reference.numfmt)).1.L_ESM
        = true := by
  refine ⟨fun v _ => ?_, rfl⟩
  simp [sameNum]

theorem witness_LeadEnvelopeRamp :
    0 ≤ (powerOn Reference.numfmt).T ∧ (powerOn Reference.numfmt).L_EACC = 0
      ∧ 0 ≤ (powerOn Reference.numfmt).L_ESM ∧ (powerOn Reference.numfmt).L_ESM ≤ 1 := by
  simp [powerOn]

theorem witness_BassEnvelopeDecaysLinearly : (Reference.params someOpen).NUMFMT = Reference.numfmt
    ∧ 1 ≤ (powerOn Reference.numfmt).SPQ := ⟨rfl, by decide⟩

theorem witness_LeadVoiceSample : answer (seql tc1 (started tc1 9)) (fun r => r.2.restruck) = true := by decide +kernel

/-- The Lead of the reference instance answers from power-on, its gate closed and its smoothed envelope in [0,1]. -/
theorem witness_LeadMutedUntilGate :
    (∃ b' out, lead (Reference.params someOpen) (powerOn Reference.numfmt) = .ok (b', out))
      ∧ (powerOn Reference.numfmt).L_GATE = false
      ∧ 0 ≤ (powerOn Reference.numfmt).L_ESM ∧ (powerOn Reference.numfmt).L_ESM ≤ 1 := by
  obtain ⟨b1, e, h⟩ := seql_completes (P := Reference.params someOpen) (b := powerOn Reference.numfmt)
    (defaultParams_wfSizes _ _) (show 0 < 256 by decide) (show 0 < 15 by decide)
  refine ⟨⟨_, _, lead_of_seql h⟩, rfl, ?_⟩
  simp [powerOn]

theorem witness_BassVoiceSample : answer (seqb tc1 (started tc1 9)) (fun r => r.2.note == 45) = true := by
  decide +kernel

theorem witness_VoicesDoNotInteract :
    answer (bass tc1 (started tc1 9)) (fun r => answer (lead tc1 r.1) fun _ => true) = true := by decide +kernel

/-- The cursor at its last cell, and the largest delay; then the two clauses of the tap. -/
theorem witness_DelayStep :
    let b := { started tc0 9 with D_WCUR := 44099, DTIME := 44099 }
    b.D_WCUR < tc0.DELAY_CAP ∧ b.DTIME < tc0.DELAY_CAP ∧ Memory.wf tc0.NUMFMT.zero b.DBUF = true
      ∧ b.DTIME ≤ b.D_WCUR ∧ ¬ ({ b with D_WCUR := 44098 } : Block Rat).DTIME ≤ 44098 := by decide +kernel

/-- An input long enough for the first echo: `DTIME = 3` at rate 9; and a delay time of 0. -/
theorem witness_DelayRecurrence :
    (started tc0 9).DBUF = [] ∧ (started tc0 9).D_WCUR = 0 ∧ (started tc0 9).DTIME = 3
      ∧ (started tc0 9).DTIME < tc0.DELAY_CAP ∧ (3 : Nat) < ([1, 0, 0, 0, 0] : List Rat).length
      ∧ ({ started tc0 9 with DTIME := 0 } : Block Rat).DTIME < tc0.DELAY_CAP
      ∧ answer (dlyRun tc0 [1, 0, 0, 0, 0] (started tc0 9)) (fun r => r.1 == [0, 0, 0, 1, 0]) = true := by
  decide +kernel

theorem witness_BufferIsItsCells : Memory.wf (0 : Rat) [(0, 1), (3, 1 / 2)] = true
    ∧ Memory.wf (0 : Rat) (DelayMemory.write 0 (DelayMemory.write 0 [] 3 (1 / 2)) 0 1) = true
    ∧ (0 : Nat) ≠ 3 := by decide +kernel

theorem witness_UnitOperationFrames :
    answer (performUnit tc1 (.dly 1) (started tc1 9)) (fun r => r.1.D_WCUR == 1) = true
      ∧ Register.B_ENV ∉ unitWrites (.dly (1 : Rat)) := by decide +kernel

theorem witness_UnitOperationsComplete : params.wfSizes = true ∧ runningState.block.InRange params :=
  ⟨params_wfSizes, runningState_inRange⟩

theorem witness_RenderIsTickRun :
    let s : State := { runningState with pending := (ScriptLine.render 1).transactions runningState.ratePort }
    s.pending = (ScriptLine.render 1).transactions s.ratePort
      ∧ ∃ ys b, tickRun params 1 s.block = .ok (ys, b) := by
  obtain ⟨b, out, ht, -⟩ := tick_completes params_wfSizes runningState_inRange
  refine ⟨rfl, out.toList ++ [], b, ?_⟩
  show tickRun params 1 runningState.block = _
  rw [tickRun, ht]
  rfl

theorem witness_InRangeKeptByStep : runningState.InRange := runningState_inRange

/-- The least rate INIT accepts. -/
theorem witness_OutputBound : (powerOn Reference.numfmt).MODE ≠ .failed
    ∧ initCheck (Reference.params someOpen) 9 = .none := by
  refine ⟨by show Mode.unconfigured ≠ .failed; decide, ?_⟩
  rw [initCheck_none]
  refine ⟨rfl, by simp, ?_, ?_⟩
  · simp only [spqOf, quarterNote, Reference.params_numfmt, Reference.numfmt_floor, Int.le_floor]
    simp [Reference.params, defaultParams]
  · simp only [dtimeOf, quarterNote, Reference.params_numfmt, Reference.numfmt_floor, Int.floor_lt]
    simp [Reference.params, defaultParams]
    norm_num

/-- Open parameters with both LFO rates above 0, and a run of 0 ticks. -/
theorem witness_IncrementsArePositive : (Reference.params someOpen).wfOpen = true
    ∧ (powerOn Reference.numfmt).MODE ≠ .failed ∧ initCheck (Reference.params someOpen) 9 = .none
    ∧ ∃ ys b', tickRun (Reference.params someOpen) 0
        (init (Reference.params someOpen) { rate := fun _ => 0, period := fun _ => 0, spq := fun _ => 0
                                            dtime := fun _ => 0, negativeDelay := fun _ => 0 } 9
          (powerOn Reference.numfmt)) = .ok (ys, b') := by
  refine ⟨?_, witness_OutputBound.1, witness_OutputBound.2, _, _, rfl⟩
  have h1 : (Reference.params someOpen).LEAD_LFO_HZ = 5 := rfl
  have h2 : (Reference.params someOpen).BASS_LFO_HZ = 1 / 2 := rfl
  simp [Params.wfOpen, Params.wfLfo, h1, h2]

/-- A block with the least sizes over a format of one number: its runs repeat, so every operation of them can be looked
at. -/
def oneNumber : Params Unit :=
  { defaultParams
      { add := fun _ _ => (), sub := fun _ _ => (), mul := fun _ _ => (), div := fun _ _ => (), neg := id, abs := id
        min := fun _ _ => (), max := fun _ _ => (), floor := fun _ => 1, ofInt := fun _ => (), lt := fun _ _ => true
        le := fun _ _ => true, eq := fun _ _ => true, isFinite := fun _ => true, cos2pi := id, sin2pi := id, exp2 := id }
      { leadTrig := Vector.replicate 256 0, leadPitch := Vector.replicate 15 69, bassRootRest := Vector.replicate 7 0
        leadLfoHz := (), bassLfoHz := (), bassSubDuty := () } with
    DELAY_CAP := 2, LEAD_STEPS := 1, BASS_STEPS := 1, ARP_LEN := 1, LEAD_PITCH_LEN := 1, BASS_ROOT_LEN := 1
    ARP := [57], LEAD_TRIG := [0], LEAD_PITCH := [69], BASS_ROOT := [0] }

/-- The block of `oneNumber` on watched numbers after INIT, with the gate and the cursor of a later tick. -/
def oneNumberBlock (gate : Bool) (cursor : Nat) : Block (Watched Unit) :=
  { powerOn oneNumber.watched.NUMFMT with MODE := .running, DTIME := 1, L_GATE := gate, D_WCUR := cursor }

theorem oneNumber_run (n : Nat) (gate : Bool) (cursor : Fin 2) (ys : List (Watched Unit)) (b : Block (Watched Unit))
    (h : tickRun oneNumber.watched n (oneNumberBlock gate cursor) = .ok (ys, b)) :
    ys.length = n ∧ ys.all (fun y => y.finite) = true ∧ b.allFinite = true := by
  induction n generalizing gate cursor ys b with
  | zero =>
    cases h
    refine ⟨rfl, rfl, ?_⟩
    revert gate cursor
    decide +kernel
  | succ n ih =>
    have ht : tick oneNumber.watched (oneNumberBlock gate cursor)
        = .ok (oneNumberBlock true (1 - cursor : Fin 2), some ⟨(), true⟩) := by
      clear h
      revert gate cursor
      decide +kernel
    rw [tickRun, ht] at h
    simp only at h
    cases hr : tickRun oneNumber.watched n (oneNumberBlock true (1 - cursor : Fin 2)) with
    | error f => rw [hr] at h; cases h
    | ok r =>
      rw [hr] at h
      cases h
      obtain ⟨h1, h2, h3⟩ := ih _ _ _ _ hr
      exact ⟨by simp [h1], by simpa using h2, h3⟩

theorem witness_FiniteClosedRunsNeverFault : oneNumber.wfSizes = true ∧ FiniteClosed oneNumber
    ∧ (powerOn oneNumber.NUMFMT).MODE ≠ .failed ∧ initCheck oneNumber () = .none :=
  ⟨by decide +kernel, fun _ _ n ys b _ h => oneNumber_run n false 0 ys b h, by decide +kernel, by decide +kernel⟩

/-- A running block of the reference instance in the middle of a quantum, its smoothed envelope and a cell at their
bounds. -/
theorem witness_BoundedKeptByTick : Block.Bounded (Reference.params someOpen)
      { powerOn Reference.numfmt with
        MODE := .running, SPQ := 2, B_Q := 1, B_ENV := 1 / 2, L_ESM := 1, DBUF := [(0, 0.3 / (1 - 0.35))] }
    ∧ (powerOn Reference.numfmt).MODE ≠ .failed ∧ initCheck (Reference.params someOpen) 9 = .none := by
  refine ⟨⟨?_, rfl, by simp, by simp, fun _ => by norm_num, fun a => ?_⟩, witness_OutputBound⟩
  · constructor <;> first | (show (_ : Nat) < _; decide) | skip
    · simp [Memory.wf, DelayMemory.wfFrom]
      norm_num
    · rfl
  · rw [DelayMemory.read]
    split <;> norm_num [abs_of_nonneg]

end Sys2Proof.Tests
end

section
/-! SUPPORT. Every unit operation completes under the bounded-index invariant and keeps it. -/

namespace Sys2Proof.Machine

variable {ν : Type} [DecidableEq ν] {P : Params ν} {b : Block ν}

/-- A write to a phase register touches no index register and no cell. -/
theorem writePhase_inRange (r : PhaseReg) (v : ν) (hi : b.InRange P) : (writePhase b r v).InRange P := by
  cases r <;>
    exact ⟨hi.spq, hi.dtime, hi.l_q, hi.l_step, hi.l_pidx, hi.b_q, hi.b_step, hi.b_ridx, hi.d_wcur, hi.memory, hi.below⟩

/-- ENVL touches no index register and no cell (43_envelope.md R120). -/
theorem envl_inRange (restruck gate : Bool) (hi : b.InRange P) : (envl P restruck gate b).1.InRange P :=
  ⟨hi.spq, hi.dtime, hi.l_q, hi.l_step, hi.l_pidx, hi.b_q, hi.b_step, hi.b_ridx, hi.d_wcur, hi.memory, hi.below⟩

/-- ENVB touches no index register and no cell (R121). -/
theorem envb_inRange (restruck : Bool) (hi : b.InRange P) : (envb P restruck b).1.InRange P :=
  ⟨hi.spq, hi.dtime, hi.l_q, hi.l_step, hi.l_pidx, hi.b_q, hi.b_step, hi.b_ridx, hi.d_wcur, hi.memory, hi.below⟩

/-- LEAD completes when the two indexes of its sequencer are in range. -/
theorem lead_completes (hP : P.wfSizes = true) (hi : b.InRange P) : ∃ b' x, lead P b = .ok (b', x) := by
  obtain ⟨b1, e, hs⟩ := seql_completes hP hi.l_step hi.l_pidx
  exact ⟨_, _, lead_of_seql hs⟩

/-- BASS completes when the root index of its sequencer is in range. -/
theorem bass_completes (hP : P.wfSizes = true) (hi : b.InRange P) : ∃ b' x, bass P b = .ok (b', x) := by
  obtain ⟨b1, e, hs⟩ := seqb_completes hP hi.b_ridx
  exact ⟨_, _, bass_of_seqb hs⟩

/-- A unit that completes and keeps the invariant still does so when its answer is tagged as a unit result. -/
theorem completes_map {α : Type} {u : Except Fault (Block ν × α)} (tag : α → UnitResult ν)
    (h : ∃ b' x, u = .ok (b', x) ∧ b'.InRange P) :
    ∃ b' r, (u.map fun y => (y.1, tag y.2)) = .ok (b', r) ∧ b'.InRange P := by
  obtain ⟨b', x, rfl, hi⟩ := h
  exact ⟨b', tag x, rfl, hi⟩

/-- Settles O51, by the unit: a pure operation leaves the block alone, an envelope or a phase advance writes numbers
only, and the sequencers, the voices and the delay complete and keep the invariant by their own lemmas. -/
theorem unitOperationsComplete : Obligations.UnitOperationsComplete := by
  intro ν _ P u b hP hi
  cases u with
  | wrap1 | clamp | pdsaw | pwm | tri | smooth | note2f | phinc | mix => exact ⟨b, _, rfl, hi⟩
  | phadv reg inc => exact ⟨_, _, rfl, writePhase_inRange reg _ hi⟩
  | envl restruck gate => exact ⟨_, _, rfl, envl_inRange restruck gate hi⟩
  | envb restruck => exact ⟨_, _, rfl, envb_inRange restruck hi⟩
  | seql =>
    obtain ⟨b', e, h⟩ := seql_completes hP hi.l_step hi.l_pidx
    exact completes_map .lead ⟨b', e, h, seql_inRange hP h hi⟩
  | seqb =>
    obtain ⟨b', e, h⟩ := seqb_completes hP hi.b_ridx
    exact completes_map .bass ⟨b', e, h, seqb_inRange hP h hi⟩
  | lead =>
    obtain ⟨b', x, h⟩ := lead_completes hP hi
    exact completes_map .num ⟨b', x, h, lead_inRange hP h hi⟩
  | bass =>
    obtain ⟨b', x, h⟩ := bass_completes hP hi
    exact completes_map .num ⟨b', x, h, bass_inRange hP h hi⟩
  | dly x =>
    have h := dly_completes (P := P) x hi.d_wcur
    exact completes_map .num ⟨_, _, h, dly_inRange h hi⟩

end Sys2Proof.Machine
end

section
/-! SUPPORT. The machine's parameters are those of 00_scope.md tables 4a and 4b. -/

namespace Sys2Proof.Machine

/-- Settles O53: the values are the entries of `defaultParams`; the table lengths and `BASS_ROOT[0]` are what R9 says of
any well-formed parameter set. -/
theorem defaultParameters : Obligations.DefaultParameters := by
  obtain ⟨-, -, ⟨htrig, hpitch, -, hroot⟩, hzero⟩ := (wfSizes_iff params).mp params_wfSizes
  exact ⟨rfl, rfl, rfl, rfl, rfl, rfl, rfl, rfl, rfl, rfl, rfl, rfl, rfl, rfl, rfl, rfl, rfl, rfl, rfl, rfl, rfl, rfl,
    rfl, rfl, rfl, rfl, rfl, rfl, rfl, rfl, htrig, hpitch, hroot, hzero⟩

end Sys2Proof.Machine
end

section
/-! SUPPORT. Runs of TICKs: one equation per tick, what every run keeps, and that a run on watched numbers is the run on
the numbers themselves. -/

namespace Sys2Proof.Machine

variable {ν : Type}

theorem init_of_check {P : Params ν} {rate : ν} {b : Block ν} (V : FreeValues ν) (hm : b.MODE ≠ .failed)
    (hc : initCheck P rate = .none) : init P V rate b = configured P V rate b := by
  rw [init, if_neg hm, if_pos hc]

/-- The block INIT configures on watched numbers has the values of the one it configures on the numbers themselves; both
forget the block they find (46_mixer_and_commands.md R153). -/
theorem configured_values (P : Params ν) (V : FreeValues ν) (rate : ν) (w : Block (Watched ν)) (b : Block ν) :
    (configured P.watched (V.watched P.NUMFMT) (P.NUMFMT.watch rate) w).values [] = configured P V rate b := rfl

variable [DecidableEq ν] {P : Params ν} {n : Nat} {b b' : Block ν} {ys : List ν}

/-- A run of `n + 1` TICKs is a TICK and then a run of `n`. -/
theorem tickRun_succ_of {b1 : Block ν} {out : Option ν} (ht : tick P b = .ok (b1, out))
    (hr : tickRun P n b1 = .ok (ys, b')) : tickRun P (n + 1) b = .ok (out.toList ++ ys, b') := by
  simp only [tickRun, ht, hr]

/-- Everything an answered run of `n + 1` TICKs did. -/
theorem tickRun_succ_cases (h : tickRun P (n + 1) b = .ok (ys, b')) :
    ∃ b1 out ys1, tick P b = .ok (b1, out) ∧ tickRun P n b1 = .ok (ys1, b') ∧ ys = out.toList ++ ys1 := by
  rw [tickRun] at h
  cases ht : tick P b with
  | error f => simp only [ht] at h; cases h
  | ok r =>
    cases hr : tickRun P n r.1 with
    | error f => simp only [ht, hr] at h; cases h
    | ok q =>
      simp only [ht, hr] at h
      cases h
      exact ⟨r.1, r.2, q.1, rfl, hr, rfl⟩

/-- A TICK leaves the period as INIT latched it (10_state.md R25). -/
theorem tick_T {out : Option ν} (h : tick P b = .ok (b', out)) : b'.T = b.T := by
  rcases tick_cases h with ⟨-, rfl, -⟩ | ⟨-, rfl, -⟩ | ⟨-, b1, x, hs, hx⟩
  · rfl
  · rfl
  · obtain ⟨-, hT, -⟩ := schedule_control hs
    rcases hx with ⟨-, rfl, -⟩ | ⟨-, rfl, -⟩ <;> exact hT

theorem tickRun_T (h : tickRun P n b = .ok (ys, b')) : b'.T = b.T := by
  induction n generalizing b ys with
  | zero => cases h; rfl
  | succ n ih =>
    obtain ⟨b1, out, ys1, ht, hr, -⟩ := tickRun_succ_cases h
    exact (ih hr).trans (tick_T ht)

/-- Under the bounded-index invariant every run completes. -/
theorem tickRun_completes (hP : P.wfSizes = true) (n : Nat) (hi : b.InRange P) :
    ∃ ys b', tickRun P n b = .ok (ys, b') := by
  induction n generalizing b with
  | zero => exact ⟨_, _, rfl⟩
  | succ n ih =>
    obtain ⟨b1, out, ht, hi1⟩ := tick_completes hP hi
    obtain ⟨ys, b', hr⟩ := ih hi1
    exact ⟨_, _, tickRun_succ_of ht hr⟩

/-- A TICK that drives a sample drives a finite one and leaves every control register alone (R152). -/
theorem tick_sample {y : ν} (h : tick P b = .ok (b', some y)) : P.NUMFMT.isFinite y = true ∧ sameControl b' b := by
  rcases tick_cases h with ⟨-, -, ho⟩ | ⟨-, -, ho⟩ | ⟨-, b1, x, hs, ⟨hx, rfl, ho⟩ | ⟨-, -, ho⟩⟩
  · cases ho
  · cases ho
  · cases ho; exact ⟨hx, schedule_control hs⟩
  · cases ho

theorem tickRun_length_le (h : tickRun P n b = .ok (ys, b')) : ys.length ≤ n := by
  induction n generalizing b ys with
  | zero => cases h; exact Nat.le_refl 0
  | succ n ih =>
    obtain ⟨b1, out, ys1, -, hr, rfl⟩ := tickRun_succ_cases h
    have hle := ih hr
    have hout : out.toList.length ≤ 1 := by cases out <;> simp
    rw [List.length_append]
    omega

/-- In a run with as many samples as TICKs every sample is finite and no control register changes: a TICK without a
sample would leave too few. -/
theorem tickRun_full (h : tickRun P n b = .ok (ys, b')) (hn : ys.length = n) :
    (∀ y ∈ ys, P.NUMFMT.isFinite y = true) ∧ b'.MODE = b.MODE ∧ b'.CAUSE = b.CAUSE := by
  induction n generalizing b ys with
  | zero => cases h; simp
  | succ n ih =>
    obtain ⟨b1, out, ys1, ht, hr, rfl⟩ := tickRun_succ_cases h
    cases out with
    | none =>
      have hle := tickRun_length_le hr
      have hys1 : ys1.length = n + 1 := hn
      omega
    | some y =>
      obtain ⟨hy, -, -, -, -, hm, hc⟩ := tick_sample ht
      obtain ⟨hys, hm', hc'⟩ := ih hr (by simpa using hn)
      exact ⟨by simpa using ⟨hy, hys⟩, hm'.trans hm, hc'.trans hc⟩

/-- A run that answers on watched numbers answers their values on the numbers themselves. -/
theorem watched_tickRun {d : DelayMemory ν} {w w' : Block (Watched ν)} {zs : List (Watched ν)}
    (h : tickRun P.watched n w = .ok (zs, w')) (hf : Follows P d w) :
    ∃ d', tickRun P n (w.values d) = .ok (zs.map (·.value), w'.values d') := by
  induction n generalizing d w zs with
  | zero => cases h; exact ⟨d, rfl⟩
  | succ n ih =>
    obtain ⟨w1, out, zs1, ht, hr, rfl⟩ := tickRun_succ_cases h
    obtain ⟨d1, ht1, hf1⟩ := watched_tick ht hf
    obtain ⟨d', hr'⟩ := ih hr hf1
    refine ⟨d', (tickRun_succ_of ht1 hr').trans ?_⟩
    cases out <;> rfl

theorem configured_follows (P : Params ν) (V : FreeValues (Watched ν)) (rate : Watched ν) (w : Block (Watched ν)) :
    Follows P [] (configured P.watched V rate w) := ⟨fun _ => rfl, rfl, rfl⟩

/-- Settles O59: under the invariant the run on watched numbers completes; `finite_closed` gives it a sample per TICK;
the run on the numbers themselves follows it, so it has a sample per TICK too, which no faulting run has. -/
theorem finiteClosedRunsNeverFault : Obligations.FiniteClosedRunsNeverFault := by
  intro ν _ P V rate b n hP hF hm hc
  have hcw : initCheck P.watched (P.NUMFMT.watch rate) = .none := hc
  have hw := init_of_check (V.watched P.NUMFMT) (b := powerOn P.watched.NUMFMT) (fun h => Mode.noConfusion h) hcw
  obtain ⟨zs, w', hrun⟩ := tickRun_completes (P := P.watched) hP n
    (configured_inRange P.watched (V.watched P.NUMFMT) (P.NUMFMT.watch rate) (powerOn P.watched.NUMFMT) hP hcw)
  obtain ⟨hlen, -, -⟩ := hF V rate n zs w' hc (hw ▸ hrun)
  obtain ⟨d', hplain⟩ := watched_tickRun hrun (configured_follows P _ _ _)
  rw [configured_values P V rate _ b] at hplain
  have hlen' : (zs.map (·.value)).length = n := by rw [List.length_map, hlen]
  obtain ⟨hfin, hmode, hcause⟩ := tickRun_full hplain hlen'
  exact ⟨_, _, (init_of_check V hm hc) ▸ hplain, hlen', hfin, hmode, hcause⟩

end Sys2Proof.Machine
end

section
/-! SUPPORT. The phase increments in exact real arithmetic. -/

namespace Sys2Proof.Reference

open Sys2Proof.Machine

/-- A successful INIT latches a positive period (46_mixer_and_commands.md R153). -/
theorem configured_T_pos {o : OpenParams ℝ} {rate : ℝ} (V : FreeValues ℝ) (b : Block ℝ)
    (hc : initCheck (params o) rate = .none) : 0 < (configured (params o) V rate b).T := by
  obtain ⟨-, hr, -, -⟩ := (initCheck_none (params o) rate).mp hc
  have hrate : 0 < rate := by simpa using hr
  simpa using hrate

/-- Every note has a positive frequency (41_phase_accumulator.md R101). -/
theorem note2f_pos (o : OpenParams ℝ) (note : ℝ) : 0 < note2f (params o) note := by
  have hA4 : (0 : ℝ) < (params o).A4_HZ := by simp [params, defaultParams]
  exact mul_pos hA4 (Real.rpow_pos_of_pos two_pos _)

/-- A positive frequency over a positive period is a positive increment (R102). -/
theorem phinc_pos {b : Block ℝ} {f : ℝ} (hf : 0 < f) (hT : 0 < b.T) : 0 < phinc numfmt b f := mul_pos hf hT

/-- An LFO rate of table 4b's type is positive. -/
theorem wfLfo_pos {o : OpenParams ℝ} {hz : ℝ} (h : (params o).wfLfo hz = true) : 0 < hz := by
  simpa [Params.wfLfo] using h

/-- Settles O58: no TICK writes the period, which a successful INIT latched as `1 / rate` with a positive rate; the
frequencies are positive by table 4b and because a power of 2 is. -/
theorem incrementsArePositive : Obligations.IncrementsArePositive := by
  intro o V rate b b' n ys hopen hm hc hrun
  rw [init_of_check V hm hc] at hrun
  have hT : 0 < b'.T := tickRun_T hrun ▸ configured_T_pos V b hc
  obtain ⟨⟨hlead, hbass⟩, -⟩ : ((params o).wfLfo (params o).LEAD_LFO_HZ = true
      ∧ (params o).wfLfo (params o).BASS_LFO_HZ = true) ∧ _ := by
    simpa only [Params.wfOpen, Bool.and_eq_true] using hopen
  exact ⟨phinc_pos (wfLfo_pos hlead) hT, phinc_pos (wfLfo_pos hbass) hT,
    fun note => phinc_pos (note2f_pos o note) hT⟩

end Sys2Proof.Reference
end

section
/-! SUPPORT. In a format whose every number is finite, every operation of every run of TICKs gives a finite result. The
mark of a watched number says so of the operations behind it (log 8); each lemma below is about one function of the
model run on watched numbers. -/

namespace Sys2Proof.Machine

variable {ν : Type}

/-! ## The marks of NUMFMT's functions -/

@[simp] theorem watched_NUMFMT (P : Params ν) : P.watched.NUMFMT = P.NUMFMT.watched := rfl

@[simp] theorem watched_add_finite (F : NumFmt ν) (x y : Watched ν) : (F.watched.add x y).finite
    = (x.finite && y.finite && F.isFinite (F.add x.value y.value)) := rfl

@[simp] theorem watched_sub_finite (F : NumFmt ν) (x y : Watched ν) : (F.watched.sub x y).finite
    = (x.finite && y.finite && F.isFinite (F.sub x.value y.value)) := rfl

@[simp] theorem watched_mul_finite (F : NumFmt ν) (x y : Watched ν) : (F.watched.mul x y).finite
    = (x.finite && y.finite && F.isFinite (F.mul x.value y.value)) := rfl

@[simp] theorem watched_div_finite (F : NumFmt ν) (x y : Watched ν) : (F.watched.div x y).finite
    = (x.finite && y.finite && F.isFinite (F.div x.value y.value)) := rfl

@[simp] theorem watched_min_finite (F : NumFmt ν) (x y : Watched ν) : (F.watched.min x y).finite
    = (x.finite && y.finite && F.isFinite (F.min x.value y.value)) := rfl

@[simp] theorem watched_max_finite (F : NumFmt ν) (x y : Watched ν) : (F.watched.max x y).finite
    = (x.finite && y.finite && F.isFinite (F.max x.value y.value)) := rfl

@[simp] theorem watched_neg_finite (F : NumFmt ν) (x : Watched ν) : (F.watched.neg x).finite
    = (x.finite && F.isFinite (F.neg x.value)) := rfl

@[simp] theorem watched_abs_finite (F : NumFmt ν) (x : Watched ν) : (F.watched.abs x).finite
    = (x.finite && F.isFinite (F.abs x.value)) := rfl

@[simp] theorem watched_cos2pi_finite (F : NumFmt ν) (x : Watched ν) : (F.watched.cos2pi x).finite
    = (x.finite && F.isFinite (F.cos2pi x.value)) := rfl

@[simp] theorem watched_sin2pi_finite (F : NumFmt ν) (x : Watched ν) : (F.watched.sin2pi x).finite
    = (x.finite && F.isFinite (F.sin2pi x.value)) := rfl

@[simp] theorem watched_exp2_finite (F : NumFmt ν) (x : Watched ν) : (F.watched.exp2 x).finite
    = (x.finite && F.isFinite (F.exp2 x.value)) := rfl

@[simp] theorem watched_ofInt_finite (F : NumFmt ν) (n : Int) :
    (F.watched.ofInt n).finite = F.isFinite (F.ofInt n) := rfl

@[simp] theorem watch_finite (F : NumFmt ν) (x : ν) : (F.watch x).finite = F.isFinite x := rfl

/-! ## Waveforms, frequencies and phases -/

section
variable {P : Params ν} (hF : ∀ x, P.NUMFMT.isFinite x = true) {x y : Watched ν}
include hF

theorem add_finite (hx : x.finite = true) (hy : y.finite = true) : (P.NUMFMT.watched.add x y).finite = true := by
  simp [hF, hx, hy]

theorem mul_finite (hx : x.finite = true) (hy : y.finite = true) : (P.NUMFMT.watched.mul x y).finite = true := by
  simp [hF, hx, hy]

theorem pdsaw_finite (hx : x.finite = true) (hy : y.finite = true) : (pdsaw P.watched x y).finite = true := by
  have hclamp : (clamp P.NUMFMT.watched y P.watched.PD_LO P.watched.PD_HI).finite = true := by
    simp [clamp, Params.watched, hF, hy]
  have hmap : (pdMap P.NUMFMT.watched x (clamp P.NUMFMT.watched y P.watched.PD_LO P.watched.PD_HI)).finite = true := by
    unfold pdMap
    split <;> simp [half, decimal, hF, hx, hclamp]
  simp [pdsaw, hF, hmap]

theorem pwm_finite (hx : x.finite = true) (hy : y.finite = true) : (pwm P.watched x y).finite = true := by
  simp [pwm, clamp, wrap1, two, Params.watched, hF, hx, hy]

theorem bassWidth_finite (hx : x.finite = true) : (bassWidth P.watched x).finite = true := by
  simp [bassWidth, tri, two, Params.watched, hF, hx]

theorem note2f_finite (hx : x.finite = true) : (note2f P.watched x).finite = true := by
  simp [note2f, Params.watched, hF, hx]

theorem modulatedNote_finite (note : Int) (hx : x.finite = true) (hy : y.finite = true) :
    (modulatedNote P.watched note x y).finite = true := by
  simp [modulatedNote, Params.watched, hF, hx, hy]

end

/-! ## Blocks -/

theorem allFinite_iff (w : Block (Watched ν)) : w.allFinite = true ↔
    (w.RATE.finite = true ∧ w.T.finite = true)
      ∧ (w.L_EACC.finite = true ∧ w.L_ESM.finite = true ∧ w.L_LFO.finite = true ∧ w.L_PH1.finite = true
        ∧ w.L_PH2.finite = true)
      ∧ (w.B_ENV.finite = true ∧ w.B_LFO.finite = true ∧ w.B_PH1.finite = true ∧ w.B_PH2.finite = true)
      ∧ ∀ c ∈ w.DBUF, c.2.finite = true := by
  simp [Block.allFinite, and_assoc]

/-- A block and an answer free of non-finite numbers: what each operation of a voice leaves. -/
def AnswerFinite (r : Block (Watched ν) × Watched ν) : Prop := r.1.allFinite = true ∧ r.2.finite = true

theorem readPhase_finite {w : Block (Watched ν)} (h : w.allFinite = true) (r : PhaseReg) :
    (readPhase w r).finite = true := by
  obtain ⟨-, ⟨-, -, hll, hl1, hl2⟩, ⟨-, hbl, hb1, hb2⟩, -⟩ := (allFinite_iff w).mp h
  cases r <;> assumption

theorem writePhase_finite {w : Block (Watched ν)} {v : Watched ν} (h : w.allFinite = true) (hv : v.finite = true)
    (r : PhaseReg) : (writePhase w r v).allFinite = true := by
  obtain ⟨hctl, hlead, hbass, hbuf⟩ := (allFinite_iff w).mp h
  rw [allFinite_iff]
  cases r <;> exact ⟨hctl, by simp [writePhase, hlead, hv], by simp [writePhase, hbass, hv], hbuf⟩

section
variable {P : Params ν} (hF : ∀ x, P.NUMFMT.isFinite x = true) {w : Block (Watched ν)} (hw : w.allFinite = true)
include hF hw

theorem phadv_finite {inc : Watched ν} (hi : inc.finite = true) (r : PhaseReg) :
    AnswerFinite (phadv P.NUMFMT.watched r inc w) := by
  have hv : (wrap1 P.NUMFMT.watched (P.NUMFMT.watched.add (readPhase w r) inc)).finite = true := by
    simp [wrap1, hF, hi, readPhase_finite hw]
  exact ⟨writePhase_finite hw hv r, hv⟩

theorem phinc_finite {f : Watched ν} (hf : f.finite = true) : (phinc P.NUMFMT.watched w f).finite = true := by
  obtain ⟨⟨-, hT⟩, -⟩ := (allFinite_iff w).mp hw
  simp [phinc, hF, hf, hT]

theorem lfo_finite {hz : Watched ν} (hh : hz.finite = true) (r : PhaseReg) : AnswerFinite (lfo P.watched r hz w) :=
  phadv_finite hF hw (phinc_finite hF hw hh) r

theorem oscillator_finite {note : Watched ν} (hn : note.finite = true) (r : PhaseReg) :
    AnswerFinite (oscillator P.watched r note w) :=
  phadv_finite hF hw (phinc_finite hF hw (note2f_finite hF hn)) r

theorem envl_finite (restruck gate : Bool) : AnswerFinite (envl P.watched restruck gate w) := by
  obtain ⟨hctl, ⟨hacc, hesm, hphases⟩, hrest⟩ := (allFinite_iff w).mp hw
  have hacc' : (leadAccumulator P.watched restruck w).finite = true := by
    cases restruck <;> simp [leadAccumulator, clamp, Params.watched, hF, hacc, hctl]
  have hsm : (smooth P.watched w.L_ESM (leadAccumulator P.watched restruck w)).finite = true :=
    add_finite hF (mul_finite hF hacc' (hF _)) (mul_finite hF hesm (hF _))
  refine ⟨(allFinite_iff _).mpr ⟨hctl, ⟨hacc', hsm, hphases⟩, hrest⟩, ?_⟩
  cases gate <;> simp [envl, b2n, hF, hsm]

theorem envb_finite (restruck : Bool) : AnswerFinite (envb P.watched restruck w) := by
  obtain ⟨hctl, hlead, ⟨henv, hphases⟩, hbuf⟩ := (allFinite_iff w).mp hw
  have hout : (envb P.watched restruck w).2.finite = true := by cases restruck <;> simp [envb, hF, henv]
  have henv' : (envb P.watched restruck w).1.B_ENV.finite = true := by cases restruck <;> simp [envb, hF, henv]
  exact ⟨(allFinite_iff _).mpr ⟨hctl, hlead, ⟨henv', hphases⟩, hbuf⟩, hout⟩

theorem leadVoice_finite (e : LeadEvent) : AnswerFinite (leadVoice P.watched e w) := by
  obtain ⟨hw1, henv⟩ := envl_finite hF hw e.restruck e.gate
  obtain ⟨hw2, hlfo⟩ := lfo_finite hF hw1 (hz := P.watched.LEAD_LFO_HZ) (hF _) .L_LFO
  have hnote := modulatedNote_finite hF e.note hlfo henv
  obtain ⟨hw3, hph1⟩ := oscillator_finite hF hw2 hnote .L_PH1
  obtain ⟨hw4, hph2⟩ := oscillator_finite hF hw3 (add_finite hF hnote (y := P.watched.LEAD_DETUNE) (hF _)) .L_PH2
  have hs1 := pdsaw_finite hF hph1 (y := P.watched.LEAD_DUTY1) (hF _)
  have hs2 := pdsaw_finite hF hph2 (y := P.watched.LEAD_DUTY2) (hF _)
  exact ⟨hw4, add_finite hF (mul_finite hF (mul_finite hF hs1 (hF _)) henv)
    (mul_finite hF (mul_finite hF hs2 (hF _)) henv)⟩

theorem bassVoice_finite (e : BassEvent) : AnswerFinite (bassVoice P.watched e w) := by
  obtain ⟨hw1, henv⟩ := envb_finite hF hw e.restruck
  obtain ⟨hw2, hlfo⟩ := lfo_finite hF hw1 (hz := P.watched.BASS_LFO_HZ) (hF _) .B_LFO
  obtain ⟨hw3, hph1⟩ := oscillator_finite hF hw2 (note := P.NUMFMT.watched.ofInt e.note) (hF _) .B_PH1
  obtain ⟨hw4, hph2⟩ := oscillator_finite hF hw3 (note := P.NUMFMT.watched.ofInt (e.note - P.SEMIS)) (hF _) .B_PH2
  have hs1 := pwm_finite hF hph1 (bassWidth_finite hF hlfo)
  have hs2 := pdsaw_finite hF hph2 (y := P.watched.BASS_SUB_DUTY) (hF _)
  exact ⟨hw4, add_finite hF (mul_finite hF (mul_finite hF hs1 (hF _)) henv) (mul_finite hF hs2 (hF _))⟩

theorem lead_finite {r : Block (Watched ν) × Watched ν} (h : lead P.watched w = .ok r) : AnswerFinite r := by
  obtain ⟨w1, e, hs, h1, h2⟩ := lead_cases h
  have hw1 : w1.allFinite = true := by rw [seql_frame hs]; exact hw
  obtain rfl : r = leadVoice P.watched e w1 := Prod.ext h1 h2
  exact leadVoice_finite hF hw1 e

theorem bass_finite {r : Block (Watched ν) × Watched ν} (h : bass P.watched w = .ok r) : AnswerFinite r := by
  obtain ⟨w1, e, hs, h1, h2⟩ := bass_cases h
  have hw1 : w1.allFinite = true := by rw [seqb_frame hs]; exact hw
  obtain rfl : r = bassVoice P.watched e w1 := Prod.ext h1 h2
  exact bassVoice_finite hF hw1 e

end

/-! ## The delay and the TICK -/

/-- A buffer of finite numbers over a finite reset value reads a finite number. -/
theorem read_finite {zero : Watched ν} {m : DelayMemory (Watched ν)} (hz : zero.finite = true)
    (hm : ∀ c ∈ m, c.2.finite = true) (a : Nat) : (m.read zero a).finite = true := by
  induction m with
  | nil => exact hz
  | cons c rest ih =>
    rw [List.forall_mem_cons] at hm
    rw [DelayMemory.read]
    split
    · exact hm.1
    · exact ih hm.2

variable [DecidableEq ν]

/-- A cell listed after a write is the one written or was listed before. -/
theorem mem_write {zero v : ν} {m : DelayMemory ν} {a : Nat} {c : Nat × ν} (h : c ∈ m.write zero a v) :
    c = (a, v) ∨ c ∈ m := by
  induction m with
  | nil =>
    rw [DelayMemory.write] at h
    split_ifs at h
    · exact .inr h
    · exact List.mem_cons.mp h
  | cons d rest ih =>
    obtain ⟨b, u⟩ := d
    rw [DelayMemory.write] at h
    split_ifs at h
    · exact .inr h
    · exact List.mem_cons.mp h
    · exact .inr (List.mem_cons_of_mem _ h)
    · exact (List.mem_cons.mp h).imp_right (List.mem_cons_of_mem _)
    · rcases List.mem_cons.mp h with rfl | hrest
      · exact .inr List.mem_cons_self
      · exact (ih hrest).imp_right (List.mem_cons_of_mem _)

section
variable {P : Params ν} (hF : ∀ x, P.NUMFMT.isFinite x = true) {w w' : Block (Watched ν)} (hw : w.allFinite = true)
include hF hw

theorem dly_finite {x y : Watched ν} (hx : x.finite = true) (h : dly P.watched x w = .ok (w', y)) :
    AnswerFinite (w', y) := by
  obtain ⟨hctl, hlead, hbass, hbuf⟩ := (allFinite_iff w).mp hw
  obtain ⟨-, -, rfl, rfl⟩ := dly_cases h
  have hy := read_finite (zero := P.watched.NUMFMT.zero) (hF _) hbuf (delayTap P.watched w)
  have hcell := add_finite hF hx (mul_finite hF (x := P.watched.FB) (hF _) hy)
  refine ⟨(allFinite_iff _).mpr ⟨hctl, hlead, hbass, fun c hc => ?_⟩, hy⟩
  rcases mem_write hc with rfl | hold
  · exact hcell
  · exact hbuf c hold

theorem schedule_finite {out : Watched ν} (h : schedule P.watched w = .ok (w', out)) : AnswerFinite (w', out) := by
  obtain ⟨w1, xb, w2, xl, xd, hb, hl, hd, rfl⟩ := schedule_cases h
  obtain ⟨hw1, hxb⟩ := bass_finite hF hw hb
  obtain ⟨hw2, hxl⟩ := lead_finite hF hw1 hl
  obtain ⟨hw3, hxd⟩ := dly_finite hF hw2 hxl hd
  exact ⟨hw3, add_finite hF (add_finite hF hxb hxl) hxd⟩

/-- A TICK in RUNNING drives a sample, all its operations finite, and stays in RUNNING. -/
theorem tick_finite {out : Option (Watched ν)} (hm : w.MODE = .running) (h : tick P.watched w = .ok (w', out)) :
    ∃ y, out = some y ∧ AnswerFinite (w', y) ∧ w'.MODE = .running := by
  rcases tick_cases h with ⟨hu, -, -⟩ | ⟨hf, -, -⟩ | ⟨-, w1, y, hs, ⟨-, rfl, ho⟩ | ⟨hn, -, -⟩⟩
  · exact absurd (hm.symm.trans hu) (by decide)
  · exact absurd (hm.symm.trans hf) (by decide)
  · obtain ⟨-, -, -, -, hmode, -⟩ := schedule_control hs
    exact ⟨y, ho, schedule_finite hF hw hs, hmode.trans hm⟩
  · exact absurd ((hF _).symm.trans hn) (by decide)

theorem tickRun_finite {n : Nat} {ys : List (Watched ν)} (hm : w.MODE = .running)
    (h : tickRun P.watched n w = .ok (ys, w')) :
    ys.length = n ∧ (∀ y ∈ ys, y.finite = true) ∧ w'.allFinite = true := by
  induction n generalizing w ys with
  | zero => cases h; exact ⟨rfl, by simp, hw⟩
  | succ n ih =>
    obtain ⟨w1, out, ys1, ht, hr, rfl⟩ := tickRun_succ_cases h
    obtain ⟨y, rfl, ⟨hw1, hy⟩, hm1⟩ := tick_finite hF hw hm ht
    obtain ⟨hlen, hys, hend⟩ := ih hw1 hm1 hr
    exact ⟨by simp [hlen], by simpa using ⟨hy, hys⟩, hend⟩

end

/-- A format whose every number is finite has `finite_closed` with any parameters (00_scope.md R14). -/
theorem finiteClosed_of_isFinite {P : Params ν} (hF : ∀ x, P.NUMFMT.isFinite x = true) : FiniteClosed P := by
  intro V rate n ys w hc h
  have hcw : initCheck P.watched (P.NUMFMT.watch rate) = .none := hc
  rw [init_of_check _ (fun h => Mode.noConfusion h) hcw] at h
  obtain ⟨hlen, hys, hend⟩ := tickRun_finite hF (by simp [allFinite_iff, hF]) rfl h
  exact ⟨hlen, List.all_eq_true.mpr hys, hend⟩

end Sys2Proof.Machine

/-! ## Exact real arithmetic -/

namespace Sys2Proof.Reference

open Sys2Proof.Machine

theorem wrap1Range : Wrap1Range numfmt := by
  intro x _
  have hfract : wrap1 numfmt x = Int.fract x := rfl
  simp [hfract, Int.fract_nonneg, Int.fract_lt_one]

theorem cosRange : CosRange numfmt := by
  refine ⟨fun x => ?_, ?_, ?_, ?_⟩
  · simp [within, Real.neg_one_le_cos, Real.cos_le_one]
  · simp [sameNum]
  · have hturn : 2 * Real.pi * (1 / 2) = Real.pi := by ring
    simp only [sameNum, half, decimal_numfmt, numfmt_cos2pi, numfmt_eq, numfmt_ofInt]
    push_cast
    rw [hturn, Real.cos_pi]
  · simp [sameNum]

theorem sinRange : SinRange numfmt :=
  ⟨fun x => by simp [within, Real.neg_one_le_sin, Real.sin_le_one], by simp [sameNum]⟩

theorem exp2Pos : Exp2Pos numfmt := by
  refine ⟨fun x _ => ?_, ?_, ?_⟩
  · simpa using Real.rpow_pos_of_pos two_pos x
  · simp [sameNum]
  · simp only [sameNum, decimal_numfmt, numfmt_exp2, numfmt_eq, numfmt_ofInt]
    rw [Real.rpow_intCast]
    norm_num

theorem zeroMul : ZeroMul numfmt := fun v _ => by simp [sameNum]

/-- Settles O54: five properties are facts about floors, cosines, sines and powers of real numbers; `finite_closed`
holds because no real number is non-finite, so no operation of a run loses its mark. -/
theorem referenceHasNamedProperties : Obligations.ReferenceHasNamedProperties :=
  ⟨wrap1Range, cosRange, sinRange, exp2Pos, zeroMul, fun _ hP => finiteClosed_of_isFinite fun _ => by rw [hP]; rfl⟩

end Sys2Proof.Reference
end

section
/-! SUPPORT. What a block keeps from one command to the next: the registers INIT derives and the opened Lead gate. -/

namespace Sys2Proof.Machine

/-- Settles O8: MODE and CAUSE are shown by the encodings of R28 and R171 and by nothing else. -/
theorem modeAndCauseValues : Obligations.ModeAndCauseValues :=
  ⟨rfl, rfl, rfl, rfl, rfl, rfl, rfl, rfl, rfl, rfl, fun _ => ⟨rfl, rfl⟩⟩

variable {ν : Type} {P : Params ν} {b b' : Block ν}

/-- From `b` to `b'` the registers INIT derives (10_state.md R24 to R27) stand, and an open Lead gate stays open
(R35). -/
structure Block.Keeps (b b' : Block ν) : Prop where
  rate : b'.RATE = b.RATE
  period : b'.T = b.T
  spq : b'.SPQ = b.SPQ
  dtime : b'.DTIME = b.DTIME
  gate : b.L_GATE = true → b'.L_GATE = true

theorem Block.Keeps.refl (b : Block ν) : b.Keeps b := ⟨rfl, rfl, rfl, rfl, id⟩

/-- Taking a fault writes MODE and CAUSE alone (60_exceptions.md R172). -/
theorem Block.Keeps.raiseFault (c : Cause) (h : b.Keeps b') : b.Keeps (raiseFault c b') :=
  ⟨h.rate, h.period, h.spq, h.dtime, h.gate⟩

/-- LEAD never clears the gate: its sequencer does not, and its voice does not write it. -/
theorem lead_keeps_gate {x : ν} (h : lead P b = .ok (b', x)) (hg : b.L_GATE = true) : b'.L_GATE = true := by
  obtain ⟨b1, e, hs, rfl, -⟩ := lead_cases h
  obtain ⟨-, hkeep⟩ := seql_gate hs
  exact hkeep hg

/-- The schedule never clears the gate: of its three slots only LEAD writes it. -/
theorem schedule_keeps_gate [DecidableEq ν] {out : ν} (h : schedule P b = .ok (b', out)) (hg : b.L_GATE = true) :
    b'.L_GATE = true := by
  obtain ⟨b1, xb, b2, xl, xd, hb, hl, hd, -⟩ := schedule_cases h
  obtain ⟨-, -, -, rfl⟩ := dly_cases hd
  have hbass : b1.L_GATE = b.L_GATE := by rw [bass_frame hb]
  have hlead : b2.L_GATE = true := lead_keeps_gate hl (hbass.trans hg)
  exact hlead

theorem schedule_keeps [DecidableEq ν] {out : ν} (h : schedule P b = .ok (b', out)) : b.Keeps b' := by
  obtain ⟨hrate, hperiod, hspq, hdtime, -⟩ := schedule_control h
  exact ⟨hrate, hperiod, hspq, hdtime, schedule_keeps_gate h⟩

theorem tick_keeps [DecidableEq ν] {out : Option ν} (h : tick P b = .ok (b', out)) : b.Keeps b' := by
  rcases tick_cases h with ⟨-, rfl, -⟩ | ⟨-, rfl, -⟩ | ⟨-, b1, x, hs, ⟨-, rfl, -⟩ | ⟨-, rfl, -⟩⟩
  · exact (Block.Keeps.refl b).raiseFault .tickUnconf
  · exact .refl _
  · exact schedule_keeps hs
  · exact (schedule_keeps hs).raiseFault .nonfinite

/-- An INIT that does not configure the block is refused in FAILED or takes a fault (46_mixer_and_commands.md R153). -/
theorem init_running_or_keeps (P : Params ν) (V : FreeValues ν) (rate : ν) (b : Block ν) :
    (init P V rate b).MODE = .running ∨ b.Keeps (init P V rate b) := by
  rcases init_cases P V rate b with ⟨-, h⟩ | ⟨-, -, h⟩ | ⟨-, -, h⟩ <;> rw [h]
  · exact .inr (.refl b)
  · exact .inl rfl
  · exact .inr ((Block.Keeps.refl b).raiseFault _)

/-- A step is RESET, a successful INIT, or keeps the derived registers and the open gate. -/
theorem step_keeps {s u : State} {t : Transaction NumCode} {rest : List (Transaction NumCode)}
    (hp : s.pending = t :: rest) (h : step s = .next u) :
    t.cmd = 0x01 ∨ (t.cmd = 0x02 ∧ u.block.MODE = .running) ∨ s.block.Keeps u.block := by
  rcases step_cases hp h with ⟨-, rfl⟩ | ⟨hreset, -⟩ | ⟨hinit, rfl⟩ | ⟨-, b, out, ht, rfl⟩ | ⟨-, -, -, -, rfl⟩
  · exact .inr (.inr (.refl s.block))
  · exact .inl hreset
  · exact .inr ((init_running_or_keeps params free t.rate s.block).imp_left fun hrun => ⟨hinit, hrun⟩)
  · exact .inr (.inr (tick_keeps ht))
  · exact .inr (.inr ((Block.Keeps.refl s.block).raiseFault .illCmd))

/-- Settles O13: a step that is neither RESET nor a successful INIT keeps the block's derived registers. -/
theorem derivedRegistersWrittenByInit : Obligations.DerivedRegistersWrittenByInit := by
  intro s u t rest hp h hreset hinit
  rcases step_keeps hp h with hcmd | ⟨hcmd, hrun⟩ | hk
  · exact absurd hcmd hreset
  · exact absurd hrun (hinit.resolve_left (not_not_intro hcmd))
  · exact ⟨hk.rate, hk.period, hk.spq, hk.dtime⟩

/-- Settles O14: a step that is neither RESET nor a successful INIT keeps an open gate open. -/
theorem gateIsNeverCleared : Obligations.GateIsNeverCleared := by
  intro s u t rest hp h hopen hclosed
  rcases step_keeps hp h with hreset | hinit | hk
  · exact .inl hreset
  · exact .inr hinit
  · exact absurd ((hk.gate hopen).symm.trans hclosed) Bool.noConfusion

end Sys2Proof.Machine
end

section
/-! SUPPORT. The bounded-index invariant of 20_memory.md R51 along the machine: power-on meets it, every command answers
and keeps it. -/

namespace Sys2Proof.Machine

/-- At power-on every index is 0 and the buffer lists no cell. -/
theorem powerOn_inRange {ν : Type} [DecidableEq ν] {P : Params ν} (F : NumFmt ν) (hP : P.wfSizes = true) :
    (powerOn F).InRange P := by
  obtain ⟨-, ⟨hcap, hlead, hbass, -, hpitch, hroot⟩, -, -⟩ := (wfSizes_iff P).mp hP
  exact ⟨Nat.one_pos, hcap, Nat.one_pos, hlead, hpitch, Nat.one_pos, hbass, hroot, hcap, rfl, rfl⟩

/-- INIT keeps the invariant: it leaves the block alone, takes a fault, or configures the block afresh
(46_mixer_and_commands.md R153). -/
theorem init_inRange {ν : Type} [DecidableEq ν] {P : Params ν} {b : Block ν} (V : FreeValues ν) (rate : ν)
    (hP : P.wfSizes = true) (hi : b.InRange P) : (init P V rate b).InRange P := by
  rcases init_cases P V rate b with ⟨-, h⟩ | ⟨-, hc, h⟩ | ⟨-, -, h⟩ <;> rw [h]
  · exact hi
  · exact configured_inRange P V rate b hP hc
  · exact raiseFault_inRange _ hi

theorem execTick_of_ok {s : State} {b : Block NumCode} {out : Option NumCode} (h : tick params s.block = .ok (b, out)) :
    execTick s = .next (s.complete b out) := by
  simp only [execTick, h]

theorem illegalCommand_inRange {s : State} (hi : s.InRange) : s.illegalCommand.InRange :=
  raiseFault_inRange _ hi

/-- Every identifier answers a next state under the invariant and keeps it. -/
theorem exec_completes (i : Instr) {s : State} (hi : s.InRange) : ∃ t, exec i s = .next t ∧ t.InRange := by
  cases i with
  | nop => exact ⟨_, rfl, hi⟩
  | reset => exact ⟨_, rfl, resetBlock_inRange params free s.freeIndex s.block params_wfSizes⟩
  | init => exact ⟨_, rfl, init_inRange free s.rateOperand params_wfSizes hi⟩
  | tick =>
    obtain ⟨b, out, ht, hb⟩ := tick_completes params_wfSizes hi
    exact ⟨_, execTick_of_ok ht, hb⟩
  | wrap1 | clamp | pdsaw | pwm | tri | smooth | phadv | note2f | phinc | seql | seqb | envl | envb | lead | bass | dly
  | mix => exact ⟨_, rfl, illegalCommand_inRange hi⟩

/-- Settles O56: with nothing pending the state stands; else the word presented is an identifier, which completes and
keeps the invariant, or is unassigned, which is a fault entry. -/
theorem inRangeKeptByStep : Obligations.InRangeKeptByStep := by
  intro s hi
  cases hp : s.pending with
  | nil => exact ⟨s, by rw [step, hp], hi⟩
  | cons t rest =>
    have hpresent : (s.present t rest).InRange := hi
    cases hd : decode t.cmd with
    | ok i => rw [step_command hp hd]; exact exec_completes i hpresent
    | error e => exact ⟨_, by simp only [step, hp, hd], illegalCommand_inRange hpresent⟩

/-- Settles O55: the machine's parameters are well formed, and power-on meets the invariant of any such set. -/
theorem inRangeAtReset : Obligations.InRangeAtReset := powerOn_inRange Config.numfmt params_wfSizes

end Sys2Proof.Machine
end

section
/-! SUPPORT. A TICK with an index outside its space (20_memory.md R51): for each access of the schedule the stop it
makes, and how the stop of a slot is the stop of the TICK. -/

namespace Sys2Proof.Machine

variable {ν : Type} {P : Params ν} {b : Block ν} {f : Fault}

/-! ## The accesses of the sequencers and of the delay -/

/-- The read of ARP, at a remainder, answers; the read of BASS_ROOT after it is stuck (42_step_sequencer.md R112). -/
theorem seqb_stuck (hP : P.wfSizes = true) (hr : P.BASS_ROOT_LEN ≤ b.B_RIDX) :
    seqb P b = .error (.outOfRange .BASS_ROOT b.B_RIDX) := by
  obtain ⟨-, ⟨-, -, -, harp, -, -⟩, ⟨-, -, hlen, hroot⟩, -⟩ := (wfSizes_iff P).mp hP
  have hread : b.B_STEP % P.ARP_LEN < P.ARP.length := by
    rw [hlen]; exact Nat.mod_lt _ harp
  simp only [seqb, bind, Except.bind, readArp, readTable_of_lt _ hread, readBassRoot, readTable_of_ge _ (hroot ▸ hr)]

theorem seql_stuck_trig (hP : P.wfSizes = true) (hq : b.L_Q = 0) (hs : P.LEAD_STEPS ≤ b.L_STEP) :
    seql P b = .error (.outOfRange .LEAD_TRIG b.L_STEP) := by
  obtain ⟨-, -, ⟨htrig, -⟩, -⟩ := (wfSizes_iff P).mp hP
  simp only [seql, if_pos hq, bind, Except.bind, readLeadTrig, readTable_of_ge _ (htrig ▸ hs)]

/-- Off a boundary LEAD_PITCH is read at the index as it stands (R111). -/
theorem seql_stuck_pitch (hP : P.wfSizes = true) (hq : b.L_Q ≠ 0) (hp : P.LEAD_PITCH_LEN ≤ b.L_PIDX) :
    seql P b = .error (.outOfRange .LEAD_PITCH b.L_PIDX) := by
  obtain ⟨-, -, ⟨-, hpitch, -⟩, -⟩ := (wfSizes_iff P).mp hP
  simp only [seql, if_neg hq, bind, Except.bind, readLeadPitch, readTable_of_ge _ (hpitch ▸ hp)]

theorem restrikes_eq_false {cell : Bit} {armed : Bool} (h : armed = false ∨ cell = 0) :
    restrikes cell armed = false := by
  rcases h with rfl | rfl
  · exact Bool.and_false _
  · rfl

/-- On a boundary that does not restrike LEAD_PITCH is read at the index as it stands too (R111). -/
theorem seql_stuck_pitch_boundary {cell : Bit} (hP : P.wfSizes = true) (hq : b.L_Q = 0)
    (hc : P.LEAD_TRIG[b.L_STEP]? = some cell) (hn : restrikes cell b.L_ARMED = false)
    (hp : P.LEAD_PITCH_LEN ≤ b.L_PIDX) : seql P b = .error (.outOfRange .LEAD_PITCH b.L_PIDX) := by
  obtain ⟨-, -, ⟨-, hpitch, -⟩, -⟩ := (wfSizes_iff P).mp hP
  have hidx : (leadBoundary P cell b).1.L_PIDX = b.L_PIDX := by simp [leadBoundary, hn]
  simp only [seql, if_pos hq, bind, Except.bind, readLeadTrig, readTable, hc, readLeadPitch, hidx,
    List.getElem?_eq_none (hpitch ▸ hp)]

/-- The read at the tap, a remainder, answers; the write at the cursor is stuck (45_delay.md R140). -/
theorem dly_stuck [DecidableEq ν] (x : ν) (hcap : 1 ≤ P.DELAY_CAP) (hw : P.DELAY_CAP ≤ b.D_WCUR) :
    dly P x b = .error (.outOfRange .DBUF b.D_WCUR) := by
  simp only [dly, bind, Except.bind, readDbuf, if_pos (delayTap_lt P b hcap), writeDbuf, if_neg (Nat.not_lt.mpr hw)]

/-! ## From a slot to the TICK -/

/-- With the root index in range BASS completes and leaves to LEAD and DLY the registers they read (44_voices.md R131). -/
theorem bass_answers (hP : P.wfSizes = true) (hr : b.B_RIDX < P.BASS_ROOT_LEN) :
    ∃ b1 x, bass P b = .ok (b1, x) ∧ sameLead b1 b ∧ sameDelay b1 b := by
  obtain ⟨c, e, hs⟩ := seqb_completes hP hr
  obtain ⟨⟨b1, x⟩, hb⟩ : ∃ r, bass P b = .ok r := ⟨_, bass_of_seqb hs⟩
  refine ⟨b1, x, hb, ?_⟩
  rw [bass_frame hb]
  exact ⟨⟨rfl, rfl, rfl, rfl, rfl, rfl, rfl, rfl, rfl, rfl⟩, rfl, rfl⟩

/-- With its two indexes in range LEAD completes and leaves to DLY the cursor and the buffer (R130). -/
theorem lead_answers (hP : P.wfSizes = true) (hs : b.L_STEP < P.LEAD_STEPS) (hp : b.L_PIDX < P.LEAD_PITCH_LEN) :
    ∃ b1 x, lead P b = .ok (b1, x) ∧ sameDelay b1 b := by
  obtain ⟨c, e, hseq⟩ := seql_completes hP hs hp
  obtain ⟨⟨b1, x⟩, hl⟩ : ∃ r, lead P b = .ok r := ⟨_, lead_of_seql hseq⟩
  refine ⟨b1, x, hl, ?_⟩
  rw [lead_frame hl]
  exact ⟨rfl, rfl⟩

variable [DecidableEq ν]

theorem tick_of_schedule_stuck (hm : b.MODE = .running) (h : schedule P b = .error f) : tick P b = .error f := by
  simp only [tick, hm, bind, Except.bind, h]

theorem tick_of_seqb_stuck (hm : b.MODE = .running) (h : seqb P b = .error f) : tick P b = .error f :=
  tick_of_schedule_stuck hm (by simp only [schedule, bass, bind, Except.bind, h])

/-- LEAD runs second: it stops the TICK when its sequencer is stuck on these Lead registers, whatever BASS wrote. -/
theorem tick_of_seql_stuck (hP : P.wfSizes = true) (hm : b.MODE = .running) (hr : b.B_RIDX < P.BASS_ROOT_LEN)
    (h : ∀ b1, sameLead b1 b → seql P b1 = .error f) : tick P b = .error f := by
  obtain ⟨b1, x, hb, hlead, -⟩ := bass_answers hP hr
  exact tick_of_schedule_stuck hm (by simp only [schedule, lead, bind, Except.bind, hb, h b1 hlead])

/-- DLY runs third: BASS and LEAD complete on their indexes and leave the cursor alone. -/
theorem tick_of_cursor_stuck (hP : P.wfSizes = true) (hm : b.MODE = .running) (hr : b.B_RIDX < P.BASS_ROOT_LEN)
    (hs : b.L_STEP < P.LEAD_STEPS) (hp : b.L_PIDX < P.LEAD_PITCH_LEN) (hw : P.DELAY_CAP ≤ b.D_WCUR) :
    tick P b = .error (.outOfRange .DBUF b.D_WCUR) := by
  obtain ⟨-, ⟨hcap, -⟩, -, -⟩ := (wfSizes_iff P).mp hP
  obtain ⟨b1, xb, hb, ⟨-, hs1, hp1, -⟩, hw1, -⟩ := bass_answers hP hr
  obtain ⟨b2, xl, hl, hw2, -⟩ := lead_answers hP (b := b1) (by rwa [hs1]) (by rwa [hp1])
  have hcur : b2.D_WCUR = b.D_WCUR := hw2.trans hw1
  have hd : dly P xl b2 = .error (.outOfRange .DBUF b.D_WCUR) := hcur ▸ dly_stuck xl hcap (by rwa [hcur])
  exact tick_of_schedule_stuck hm (by simp only [schedule, bind, Except.bind, hb, hl, hd])

theorem execTick_of_error {s : State} (h : tick params s.block = .error f) : execTick s = .fault f := by
  simp only [execTick, h]

/-- Settles O24: in the order of the accesses, each index out of its space stops its slot, and so the TICK; the slots
before it complete and leave that index alone. -/
theorem outOfRangeReadIsStuck : Obligations.OutOfRangeReadIsStuck := by
  intro s hm
  have hP := params_wfSizes
  refine ⟨fun hr => ?_, fun hr hq hs => ?_, fun hr hq hp => ?_, fun hr hq hs hp hn => ?_, fun hr hs hp hw => ?_⟩
    <;> apply execTick_of_error
  · exact tick_of_seqb_stuck hm (seqb_stuck hP hr)
  · refine tick_of_seql_stuck hP hm hr fun b1 ⟨hq1, hs1, _⟩ => ?_
    rw [← hs1] at hs ⊢
    exact seql_stuck_trig hP (hq1.trans hq) hs
  · refine tick_of_seql_stuck hP hm hr fun b1 ⟨hq1, _, hp1, _⟩ => ?_
    rw [← hp1] at hp ⊢
    exact seql_stuck_pitch hP (hq1 ▸ hq) hp
  · obtain ⟨-, -, ⟨htrig, -⟩, -⟩ := (wfSizes_iff params).mp hP
    have hcell := List.getElem?_eq_getElem (l := params.LEAD_TRIG) (i := s.block.L_STEP) (htrig ▸ hs)
    have hrest := restrikes_eq_false (hn.imp_right fun h0 => Option.some.inj (hcell.symm.trans h0))
    refine tick_of_seql_stuck hP hm hr fun b1 ⟨hq1, hs1, hp1, ha1, _⟩ => ?_
    rw [← hp1] at hp ⊢
    exact seql_stuck_pitch_boundary hP (hq1.trans hq) (by rw [hs1, hcell]) (by rwa [ha1]) hp
  · exact tick_of_cursor_stuck hP hm hr hs hp hw

end Sys2Proof.Machine
end

section
/-! SUPPORT. The delay buffer is the function of its cells (20_memory.md R59): a canonical buffer is determined by what
it reads, so laws of writes are laws of reads. -/

namespace Sys2Proof.Machine

variable {ν : Type} [DecidableEq ν] {zero : ν} {m m' : DelayMemory ν}

/-- A cell below every cell of a canonical buffer reads the reset value, so no buffer that lists it reads the same. -/
theorem read_cons_ne {lo b : Nat} {v : ν} {rest : DelayMemory ν} (hv : v ≠ zero)
    (h : DelayMemory.wfFrom zero lo m = true) (hb : b < lo) :
    DelayMemory.read zero ((b, v) :: rest) b ≠ m.read zero b := by
  rw [read_of_lt h hb]
  simpa [DelayMemory.read] using hv

/-- Two canonical buffers that read the same have the same head, because the lesser of two heads would be missing from
the other, and so the same tail. -/
theorem eq_of_read_eq_from {lo : Nat} (h : DelayMemory.wfFrom zero lo m = true)
    (h' : DelayMemory.wfFrom zero lo m' = true) (hr : ∀ a, m.read zero a = m'.read zero a) : m = m' := by
  induction m generalizing lo m' with
  | nil =>
    cases m' with
    | nil => rfl
    | cons c' rest' =>
      obtain ⟨-, hv', -⟩ := wfFrom_cons.mp h'
      exact absurd (hr c'.1).symm (read_cons_ne (lo := c'.1 + 1) hv' rfl (Nat.lt_succ_self _))
  | cons c rest ih =>
    obtain ⟨b, v⟩ := c
    obtain ⟨-, hv, hrest⟩ := wfFrom_cons.mp h
    cases m' with
    | nil => exact absurd (hr b) (read_cons_ne (lo := b + 1) hv rfl (Nat.lt_succ_self _))
    | cons c' rest' =>
      obtain ⟨b', v'⟩ := c'
      obtain ⟨-, hv', hrest'⟩ := wfFrom_cons.mp h'
      rcases Nat.lt_trichotomy b b' with hlt | rfl | hgt
      · have hfrom : DelayMemory.wfFrom zero b' ((b', v') :: rest') = true :=
          wfFrom_cons.mpr ⟨Nat.le_refl _, hv', hrest'⟩
        exact absurd (hr b) (read_cons_ne hv hfrom hlt)
      · have hvv : v = v' := by simpa [DelayMemory.read] using hr b
        have htail : ∀ a, DelayMemory.read zero rest a = DelayMemory.read zero rest' a := by
          intro a
          rcases Nat.lt_or_ge b a with hlt | hle
          · simpa [DelayMemory.read, Nat.ne_of_gt hlt] using hr a
          · rw [read_of_lt hrest (Nat.lt_succ_of_le hle), read_of_lt hrest' (Nat.lt_succ_of_le hle)]
        rw [hvv, ih hrest hrest' htail]
      · have hfrom : DelayMemory.wfFrom zero b ((b, v) :: rest) = true :=
          wfFrom_cons.mpr ⟨Nat.le_refl _, hv, hrest⟩
        exact absurd (hr b').symm (read_cons_ne hv' hfrom hgt)

theorem eq_of_read_eq (h : Memory.wf zero m = true) (h' : Memory.wf zero m' = true)
    (hr : ∀ a, m.read zero a = m'.read zero a) : m = m' :=
  eq_of_read_eq_from h h' hr

/-- What a cell reads after a write, to it or to another. -/
theorem read_write (h : Memory.wf zero m = true) (a c : Nat) (v : ν) :
    (m.write zero a v).read zero c = if c = a then v else m.read zero c := by
  split
  · next hca => rw [hca, read_write_same h]
  · next hca => exact read_write_other zero m a c v hca

theorem write_write_same (h : Memory.wf zero m = true) (a : Nat) (v w : ν) :
    (m.write zero a v).write zero a w = m.write zero a w := by
  refine eq_of_read_eq (write_wf (write_wf h _ _) _ _) (write_wf h _ _) fun i => ?_
  rw [read_write (write_wf h _ _), read_write h, read_write h]
  split <;> rfl

theorem write_comm (h : Memory.wf zero m = true) {a c : Nat} (v w : ν) (hac : a ≠ c) :
    (m.write zero a v).write zero c w = (m.write zero c w).write zero a v := by
  refine eq_of_read_eq (write_wf (write_wf h _ _) _ _) (write_wf (write_wf h _ _) _ _) fun i => ?_
  simp only [read_write (write_wf h _ _), read_write h]
  by_cases hic : i = c
  · simp [hic, hac.symm]
  · simp [hic]

theorem write_read (h : Memory.wf zero m = true) (a : Nat) : m.write zero a (m.read zero a) = m := by
  refine eq_of_read_eq (write_wf h _ _) h fun i => ?_
  rw [read_write h]
  split
  · next hia => rw [hia]
  · rfl

/-- Settles O48, by what each cell reads: a write keeps the canonical form, and a canonical buffer is determined by its
cells. -/
theorem bufferIsItsCells : Obligations.BufferIsItsCells := fun _ _ _ _ h =>
  ⟨fun _ h' hr => eq_of_read_eq h h' hr, write_write_same h, fun _ _ v w hac => write_comm h v w hac, write_read h⟩

end Sys2Proof.Machine
end

section
/-! SUPPORT. The identifier map of 30_encoding.md R76 read in both directions: an identifier and its word determine each
other. -/

namespace Sys2Proof

/-- A word that decodes has the class and the index of what it decodes to (R75). -/
theorem class_index_of_decode {w : Opid} {i : Instr} (h : decode w = .ok i) :
    opidClass w = (classOf i).toNat ∧ opidIndex w = (indexOf i).toNat := by
  unfold decode at h
  split at h
  case h_22 => split at h <;> cases h
  all_goals
    cases h
    exact ⟨‹_›, ‹_›⟩

/-- A word is its class, bits 7:4, before its index, bits 3:0 (R75). -/
theorem class_append_index (w : Opid) : w.extractLsb' 4 4 ++ w.extractLsb' 0 4 = w :=
  calc w.extractLsb' 4 4 ++ w.extractLsb' 0 4 = w.extractLsb' 0 (4 + 4) :=
        BitVec.extractLsb'_append_extractLsb'_eq_extractLsb' rfl
    _ = w := BitVec.extractLsb'_eq_self

theorem encode_of_decode {w : Opid} {i : Instr} (h : decode w = .ok i) : encode i = w := by
  obtain ⟨hclass, hindex⟩ := class_index_of_decode h
  calc encode i = w.extractLsb' 4 4 ++ w.extractLsb' 0 4 :=
        congrArg₂ (· ++ ·) (BitVec.eq_of_toNat_eq hclass.symm) (BitVec.eq_of_toNat_eq hindex.symm)
    _ = w := class_append_index w

@[simp] theorem decode_encode (i : Instr) : decode (encode i) = .ok i := by
  cases i <;> rfl

@[simp] theorem decodeTableWord_encode (i : Instr) : decodeTableWord 8 (encode i).toNat = some i := by
  have hlt : (encode i).toNat < 256 := (encode i).isLt
  simp [decodeTableWord, hlt, Decoded.instr?]

/-- Settles O2: `decode` inverts `encode` on each identifier, and conversely the fields of a decoded word are those of
its identifier. -/
theorem decodeEncodeAgree : Obligations.DecodeEncodeAgree :=
  ⟨fun i _ => ⟨decode_encode i, decodeTableWord_encode i⟩, fun _ _ => encode_of_decode⟩

/-- Settles O1: the words of R76 are the encodings of the 21 identifiers, and a word that decodes is an encoding. -/
theorem identifierMap : Obligations.IdentifierMap := by
  refine ⟨decode_encode .nop, decode_encode .reset, decode_encode .init, decode_encode .tick, decode_encode .wrap1,
    decode_encode .clamp, decode_encode .pdsaw, decode_encode .pwm, decode_encode .tri, decode_encode .smooth,
    decode_encode .phadv, decode_encode .note2f, decode_encode .phinc, decode_encode .seql, decode_encode .seqb,
    decode_encode .envl, decode_encode .envb, decode_encode .lead, decode_encode .bass, decode_encode .dly,
    decode_encode .mix, fun w i h => ?_⟩
  rw [← encode_of_decode h]
  cases i <;> decide

/-- R78's decoder answers `illegal` for every word but those of the four commands. -/
theorem decodeCommand_illegal {w : Opid} (h0 : w ≠ 0x00) (h1 : w ≠ 0x01) (h2 : w ≠ 0x02) (h3 : w ≠ 0x03) :
    decodeCommand w = .illegal := by
  unfold decodeCommand
  split
  · next hd => exact absurd (encode_of_decode hd).symm h0
  · next hd => exact absurd (encode_of_decode hd).symm h1
  · next hd => exact absurd (encode_of_decode hd).symm h2
  · next hd => exact absurd (encode_of_decode hd).symm h3
  · rfl
  · rfl

end Sys2Proof
end

section
/-! SUPPORT. What the word presented makes a step do: it performs the command of its identifier, an illegal command
takes the fault ILL_CMD, and only a TICK that stays in RUNNING drives a sample. -/

namespace Sys2Proof.Machine

/-- With nothing presented the block is idle (60_exceptions.md R188). -/
theorem step_idle {s : State} (hp : s.pending = []) : step s = .next s := by
  rw [step, hp]

/-- A word placed in front of what is pending is the command of the next step, and is consumed by it. -/
theorem step_withFetchWord (s : State) (i : Instr) : step (s.withFetchWord 8 (encode i).toNat) = exec i s := by
  have hd : decode (BitVec.ofNat 8 (encode i).toNat) = .ok i := by simp
  exact step_command (State.withFetchWord_pending s 8 _) hd

/-- Settles O3: by the rules of a step with a transaction presented, with none, and with a word placed in front. -/
theorem stepPerformsNextCommand : Obligations.StepPerformsNextCommand :=
  ⟨fun _ _ _ _ hp hd => step_command hp hd, fun _ => step_idle, step_withFetchWord⟩

/-- Settles O4: the four command words decode by R76; any other is illegal for the decoder and for the step, whose
`illegalCommand` is the fault entry written out. -/
theorem illegalCommandFaults : Obligations.IllegalCommandFaults :=
  ⟨rfl, rfl, rfl, rfl, fun _ _ _ hp h0 h1 h2 h3 => ⟨decodeCommand_illegal h0 h1 h2 h3, step_illegal hp h0 h1 h2 h3⟩⟩

/-- Settles O5: none of the 17 is one of the four commands. -/
theorem unitIdentifiersAreIllegalCommands : Obligations.UnitIdentifiersAreIllegalCommands := fun _ hi s =>
  exec_illegal (ne_of_mem_of_not_mem hi (by decide)) (ne_of_mem_of_not_mem hi (by decide))
    (ne_of_mem_of_not_mem hi (by decide)) (ne_of_mem_of_not_mem hi (by decide)) s

/-- A TICK drives a sample exactly when it starts and ends in RUNNING: the schedule writes no mode, and a TICK without a
sample is refused in FAILED or takes a fault (46_mixer_and_commands.md R152). -/
theorem tick_sample_iff {ν : Type} [DecidableEq ν] {P : Params ν} {b b' : Block ν} {out : Option ν}
    (h : tick P b = .ok (b', out)) : out.isSome = true ↔ b.MODE = .running ∧ b'.MODE = .running := by
  rcases tick_cases h with ⟨hm, -, rfl⟩ | ⟨hm, -, rfl⟩ | ⟨hm, b1, x, hs, ⟨-, rfl, rfl⟩ | ⟨-, rfl, rfl⟩⟩
  · simp [hm]
  · simp [hm]
  · obtain ⟨-, -, -, -, hmode, -⟩ := schedule_control hs
    simp [hmode, hm]
  · simp

/-- Settles O11: of the commands only TICK drives `sample`, and it does so exactly from RUNNING to RUNNING. -/
theorem sampleValidExactlyAfterTick : Obligations.SampleValidExactlyAfterTick := by
  intro s u t rest hp h
  rcases step_cases hp h with ⟨hc, rfl⟩ | ⟨hc, rfl⟩ | ⟨hc, rfl⟩ | ⟨hc, b, out, ht, rfl⟩ | ⟨-, -, -, hc, rfl⟩
  · simp [State.sampleValid, hc]
  · simp [State.sampleValid, hc]
  · simp [State.sampleValid, hc]
  · simpa [State.sampleValid, hc] using tick_sample_iff ht
  · simp [State.sampleValid]

end Sys2Proof.Machine
end

section
/-! SUPPORT. Command scripts (30_encoding.md R80) and their pseudo-commands (R81). -/

namespace Sys2Proof.Machine

variable {ν : Type}

/-- RENDER n is n lines TICK (R81). -/
theorem render_transactions (idle : ν) (n : Nat) :
    (ScriptLine.render n).transactions idle = (List.replicate n ScriptLine.tick).flatMap (·.transactions idle) := by
  rw [List.flatMap_replicate]
  exact List.flatten_replicate_singleton.symm

/-- Settles O6: every clause but RENDER's is the definition of a line's transactions or of a script as its lines one
after another. -/
theorem pseudoCommandsExpand : Obligations.PseudoCommandsExpand := fun _ idle =>
  ⟨rfl, rfl, fun _ => rfl, rfl, fun _ => rfl, rfl, fun _ _ => List.flatMap_cons, render_transactions idle,
    fun _ => rfl, fun _ => rfl⟩

end Sys2Proof.Machine
end

section
/-! SUPPORT. The waveform primitives and the smoother (40_waveform_primitives.md R90 to R96) in exact real arithmetic:
for each, its formula on real numbers and its values on the pieces of its domain. -/

namespace Sys2Proof.Reference

open Sys2Proof.Machine

/-! ## WRAP1 -/

theorem wrap1_eq_fract (x : ℝ) : wrap1 numfmt x = Int.fract x := rfl

theorem wrap1_eq_sub {x : ℝ} (n : ℤ) (hle : (n : ℝ) ≤ x) (hlt : x < n + 1) : wrap1 numfmt x = x - n := by
  rw [wrap1_numfmt, Int.floor_eq_iff.mpr ⟨hle, hlt⟩]

/-- Settles O25: on the real numbers WRAP1 is the fractional part, the distance to the integer below. -/
theorem wrapsIntoUnitInterval : Obligations.WrapsIntoUnitInterval := by
  refine ⟨fun _ _ _ => rfl, fun x => ?_, (wrap1_eq_fract 0).trans Int.fract_zero,
    (wrap1_eq_fract 1).trans Int.fract_one, ?_, ?_, ?_, ?_⟩
  · rw [wrap1_eq_fract]
    exact ⟨Int.fract_nonneg x, Int.fract_lt_one x, ⌊x⌋, (Int.fract_add_floor x).symm⟩
  · rw [wrap1_eq_sub 1] <;> norm_num
  · rw [wrap1_eq_sub 2] <;> norm_num
  · rw [wrap1_eq_sub (-1)] <;> norm_num
  · rw [wrap1_eq_sub (-1)] <;> norm_num

/-! ## CLAMP -/

section
variable {x lo hi : ℝ}

theorem clamp_numfmt (x lo hi : ℝ) : clamp numfmt x lo hi = min (max x lo) hi := rfl

theorem le_clamp (h : lo ≤ hi) : lo ≤ clamp numfmt x lo hi := le_min (le_max_right x lo) h

theorem clamp_le : clamp numfmt x lo hi ≤ hi := min_le_right _ _

theorem clamp_of_le (h : lo ≤ hi) (hx : x ≤ lo) : clamp numfmt x lo hi = lo := by
  rw [clamp_numfmt, max_eq_right hx, min_eq_left h]

theorem clamp_of_ge (hx : hi ≤ x) : clamp numfmt x lo hi = hi := min_eq_right (le_max_of_le_left hx)

theorem clamp_of_mem (hlo : lo ≤ x) (hhi : x ≤ hi) : clamp numfmt x lo hi = x := by
  rw [clamp_numfmt, max_eq_left hlo, min_eq_left hhi]

end

/-- Settles O26: the minimum and the maximum of CLAMP on each side of the two bounds. -/
theorem clampsToClosedInterval : Obligations.ClampsToClosedInterval :=
  ⟨fun _ _ _ _ _ => rfl, fun _ _ _ h => ⟨le_clamp h, clamp_le, clamp_of_le h, clamp_of_ge, clamp_of_mem⟩⟩

/-! ## The clamped operand of PDSAW and of PWM (R96) -/

section
variable {P : Params ℝ} (hN : P.NUMFMT = numfmt)
include hN

theorem wfBounds_numfmt {lo hi : ℝ} (h : P.wfBounds lo hi = true) : 0 < lo ∧ lo < hi ∧ hi < 1 := by
  simp only [Params.wfBounds, hN, Bool.and_eq_true, numfmt_lt, numfmt_ofInt, Int.cast_zero, Int.cast_one] at h
  obtain ⟨⟨⟨⟨hlt, hlo⟩, -⟩, -⟩, hhi⟩ := h
  exact ⟨hlo, hlt, hhi⟩

/-- A number clamped to well-formed bounds is strictly between 0 and 1. -/
theorem clamp_mem_Ioo {lo hi : ℝ} (h : P.wfBounds lo hi = true) (x : ℝ) : clamp numfmt x lo hi ∈ Set.Ioo 0 1 := by
  obtain ⟨hlo, hlt, hhi⟩ := wfBounds_numfmt hN h
  exact ⟨hlo.trans_le (le_clamp hlt.le), clamp_le.trans_lt hhi⟩

end

theorem wf_bounds {ν : Type} {P : Params ν} (h : P.wf = true) :
    P.wfBounds P.PD_LO P.PD_HI = true ∧ P.wfBounds P.PW_LO P.PW_HI = true := by
  simp only [Params.wf, Params.wfNums, Bool.and_eq_true] at h
  obtain ⟨-, ⟨-, hpd⟩, hpw⟩ := h
  exact ⟨hpd, hpw⟩

/-! ## PDSAW -/

/-- The two segments of R92. -/
theorem pdMap_numfmt (phase d : ℝ) :
    pdMap numfmt phase d = if phase < d then phase * 0.5 / d else 0.5 + (phase - d) * 0.5 / (1 - d) := by
  have hhalf : half numfmt = 0.5 := by norm_num [half]
  simp only [pdMap, hhalf, numfmt_lt, numfmt_add, numfmt_sub, numfmt_mul, numfmt_div, numfmt_ofInt, Int.cast_one]

theorem pdMap_zero {d : ℝ} (hd : 0 < d) : pdMap numfmt 0 d = 0 := by
  rw [pdMap_numfmt, if_pos hd, zero_mul, zero_div]

theorem pdMap_breakpoint (d : ℝ) : pdMap numfmt d d = 0.5 := by
  rw [pdMap_numfmt, if_neg (lt_irrefl d), sub_self, zero_mul, zero_div, add_zero]

theorem pdMap_one {d : ℝ} (hd : d < 1) : pdMap numfmt 1 d = 1 := by
  rw [pdMap_numfmt, if_neg hd.not_gt, mul_div_cancel_left₀ _ (sub_pos.mpr hd).ne']
  norm_num

/-- With the breakpoint in the middle both segments have slope 1. -/
theorem pdMap_middle (phase : ℝ) : pdMap numfmt phase 0.5 = phase := by
  rw [pdMap_numfmt]
  split
  · ring
  · ring

section
variable {P : Params ℝ} (hN : P.NUMFMT = numfmt)
include hN

theorem pdsaw_numfmt (phase duty : ℝ) : pdsaw P phase duty
    = -Real.cos (2 * Real.pi * pdMap numfmt phase (clamp numfmt duty P.PD_LO P.PD_HI)) := by
  simp only [pdsaw, hN, numfmt_neg, numfmt_cos2pi]

theorem pdsaw_congr {duty duty' : ℝ}
    (h : clamp numfmt duty P.PD_LO P.PD_HI = clamp numfmt duty' P.PD_LO P.PD_HI) (phase : ℝ) :
    pdsaw P phase duty = pdsaw P phase duty' := by
  rw [pdsaw_numfmt hN, pdsaw_numfmt hN, h]

/-- A mapped phase at either end of the turn gives the minimum. -/
theorem pdsaw_eq_neg_one {phase duty : ℝ} (h : pdMap numfmt phase (clamp numfmt duty P.PD_LO P.PD_HI) = 0
    ∨ pdMap numfmt phase (clamp numfmt duty P.PD_LO P.PD_HI) = 1) : pdsaw P phase duty = -1 := by
  rw [pdsaw_numfmt hN]
  rcases h with h | h
  · rw [h, mul_zero, Real.cos_zero]
  · rw [h, mul_one, Real.cos_two_pi]

/-- A mapped phase of half a turn gives the maximum. -/
theorem pdsaw_breakpoint (duty : ℝ) : pdsaw P (clamp numfmt duty P.PD_LO P.PD_HI) duty = 1 := by
  have hturn : 2 * Real.pi * 0.5 = Real.pi := by ring
  rw [pdsaw_numfmt hN, pdMap_breakpoint, hturn, Real.cos_pi, neg_neg]

end

/-- Settles O27: PDSAW is minus a cosine, so within [-1,1]; well-formed bounds keep the breakpoint strictly between 0
and 1, so the divisors are not 0 and the map is 0, one half and 1 at the corners; a duty beyond a bound and the bound
itself have the same clamp. -/
theorem phaseDistortionSawtooth : Obligations.PhaseDistortionSawtooth := by
  refine ⟨fun _ _ _ _ => rfl, fun P hN hP phase duty => ?_⟩
  obtain ⟨hbounds, -⟩ := wf_bounds hP
  obtain ⟨-, hlt, -⟩ := wfBounds_numfmt hN hbounds
  obtain ⟨h0, h1⟩ := clamp_mem_Ioo hN hbounds duty
  have hcos := pdsaw_numfmt hN phase duty
  refine ⟨by rw [hcos, pdMap_numfmt, clamp_numfmt], ?_, ?_, h0.ne', (sub_pos.mpr h1).ne',
    pdsaw_eq_neg_one hN (.inl (pdMap_zero h0)), pdsaw_breakpoint hN duty, pdsaw_eq_neg_one hN (.inr (pdMap_one h1)),
    fun hd => ?_, fun hd => ?_, fun hd => ?_⟩
  · exact hcos ▸ neg_le_neg (Real.cos_le_one _)
  · exact hcos ▸ neg_le.mp (Real.neg_one_le_cos _)
  · exact pdsaw_congr hN ((clamp_of_ge hd).trans (clamp_of_ge le_rfl).symm) phase
  · exact pdsaw_congr hN ((clamp_of_le hlt.le hd).trans (clamp_of_le hlt.le le_rfl).symm) phase
  · rw [hcos, clamp_numfmt, hd, pdMap_middle]

/-! ## PWM -/

section
variable {P : Params ℝ} (hN : P.NUMFMT = numfmt) {phase width w : ℝ} (hw : clamp numfmt width P.PW_LO P.PW_HI = w)
include hN hw

theorem pwm_numfmt : pwm P phase width = (phase - wrap1 numfmt (phase + w) + w) * 2 - 1 := by
  simp only [pwm, two, hN, hw, numfmt_add, numfmt_sub, numfmt_mul, numfmt_ofInt,
    Int.cast_ofNat, Int.cast_one]

/-- Before `1 - w` the shifted phase does not wrap. -/
theorem pwm_low (h0 : 0 ≤ phase + w) (h1 : phase + w < 1) : pwm P phase width = -1 := by
  rw [pwm_numfmt hN hw, wrap1_eq_sub 0 (by simpa using h0) (by simpa using h1), Int.cast_zero]
  ring

/-- From `1 - w` on it wraps once. -/
theorem pwm_high (h1 : 1 ≤ phase + w) (h2 : phase + w < 2) : pwm P phase width = 1 := by
  rw [pwm_numfmt hN hw, wrap1_eq_sub 1 (by simpa using h1) (by norm_num [h2]), Int.cast_one]
  ring

end

/-- Settles O28: the clamped width is strictly between 0 and 1, so the shifted phase is in [0,2) and wraps exactly from
`1 - w` on. -/
theorem pulseWidthWave : Obligations.PulseWidthWave := by
  refine ⟨fun _ _ _ _ => rfl, fun P hN hP phase width hp0 hp1 => ?_⟩
  obtain ⟨-, hbounds⟩ := wf_bounds hP
  obtain ⟨hw0, hw1⟩ := clamp_mem_Ioo hN hbounds width
  rw [clamp_numfmt] at hw0 hw1
  have hw := clamp_numfmt width P.PW_LO P.PW_HI
  refine ⟨hN ▸ pwm_numfmt hN hw, fun h => pwm_low hN hw ?_ ?_, fun h => pwm_high hN hw ?_ ?_⟩ <;> linarith

/-! ## TRI -/

theorem tri_numfmt (p : ℝ) : tri numfmt p = 1 - |p * 2 - 1| := by
  simp [tri, two]

theorem tri_rising {p : ℝ} (h : p ≤ 0.5) : tri numfmt p = p * 2 := by
  rw [tri_numfmt, abs_of_nonpos (by linarith)]
  ring

theorem tri_falling {p : ℝ} (h : 0.5 ≤ p) : tri numfmt p = 2 - p * 2 := by
  rw [tri_numfmt, abs_of_nonneg (by linarith)]
  ring

theorem tri_le_one (p : ℝ) : tri numfmt p ≤ 1 := by
  rw [tri_numfmt]
  exact sub_le_self 1 (abs_nonneg _)

theorem tri_nonneg {p : ℝ} (h0 : 0 ≤ p) (h1 : p ≤ 1) : 0 ≤ tri numfmt p := by
  rcases le_total p 0.5 with h | h
  · rw [tri_rising h]; linarith
  · rw [tri_falling h]; linarith

/-- Settles O29: TRI is linear on either side of 0.5, with slope 2 before and -2 after. -/
theorem triangleIsUnipolar : Obligations.TriangleIsUnipolar := by
  refine ⟨fun _ _ _ => rfl, fun p h0 h1 => ⟨tri_nonneg h0 h1.le, tri_le_one p⟩, fun p q hpq hq => ?_,
    fun p q hp hpq => ?_, ?_, ?_, ?_, ?_, ?_⟩
  · rw [tri_rising hq, tri_rising (hpq.trans hq)]; linarith
  · rw [tri_falling hp, tri_falling (hp.trans hpq)]; linarith
  · rw [tri_rising] <;> norm_num
  · rw [tri_rising] <;> norm_num
  · rw [tri_rising] <;> norm_num
  · rw [tri_falling] <;> norm_num
  · rw [tri_falling] <;> norm_num

/-! ## SMOOTH -/

/-- One application to the constant input `u` shrinks the distance from `u` by 0.99. -/
theorem smooth_sub (o : OpenParams ℝ) (s u : ℝ) : smooth (params o) s u - u = (s - u) * 0.99 := by
  simp only [smooth, params, defaultParams, decimal_numfmt, numfmt_add, numfmt_mul]
  push_cast
  ring

theorem smoothRun_eq (o : OpenParams ℝ) (u s0 : ℝ) (n : Nat) :
    smoothRun (params o) u n s0 = u + (s0 - u) * 0.99 ^ n := by
  induction n generalizing s0 with
  | zero => simp [smoothRun]
  | succ n ih =>
    calc smoothRun (params o) u (n + 1) s0 = smoothRun (params o) u n (smooth (params o) s0 u) := rfl
      _ = u + (smooth (params o) s0 u - u) * 0.99 ^ n := ih _
      _ = u + (s0 - u) * 0.99 ^ (n + 1) := by rw [smooth_sub, pow_succ', mul_assoc]

/-- Settles O30, by induction on the number of applications. -/
theorem smootherStepResponse : Obligations.SmootherStepResponse :=
  ⟨fun _ _ _ _ => rfl, smoothRun_eq⟩

end Sys2Proof.Reference
end

section
/-! SUPPORT. The phase accumulator and the phase increment in any number format (41_phase_accumulator.md R100, R102):
what a write to a phase register leaves unchanged, and the equations of PHADV and PHINC. -/

namespace Sys2Proof.Machine

variable {ν : Type} {F : NumFmt ν} {b : Block ν}

/-! ## The frame of a write to a phase register -/

theorem agree_register_iff (p : PhaseReg) {a : Block ν} :
    p.register.agree a b ↔ readPhase a p = readPhase b p := by
  cases p <;> rfl

/-- Another phase register is one under another name. -/
theorem writePhase_agree_register {p r : PhaseReg} (v : ν) (h : p.register ≠ r.register) :
    p.register.agree (writePhase b r v) b :=
  (agree_register_iff p).mpr (readPhase_writePhase_other b r p v (ne_of_apply_ne PhaseReg.register h))

theorem writePhase_agree {q : Register} {r : PhaseReg} (v : ν) (h : q ≠ r.register) :
    q.agree (writePhase b r v) b := by
  cases q with
  | L_LFO => exact writePhase_agree_register (p := .L_LFO) v h
  | L_PH1 => exact writePhase_agree_register (p := .L_PH1) v h
  | L_PH2 => exact writePhase_agree_register (p := .L_PH2) v h
  | B_LFO => exact writePhase_agree_register (p := .B_LFO) v h
  | B_PH1 => exact writePhase_agree_register (p := .B_PH1) v h
  | B_PH2 => exact writePhase_agree_register (p := .B_PH2) v h
  | L_Q | L_STEP | L_PIDX | L_ARMED | L_GATE | L_EACC | L_ESM | B_Q | B_STEP | B_RIDX | B_ENV | D_WCUR | DBUF =>
    simp [Register.agree]

theorem writePhase_sameControl (r : PhaseReg) (v : ν) : sameControl (writePhase b r v) b := by
  simp [sameControl]

/-! ## PHADV -/

theorem phadv_value (r : PhaseReg) (inc : ν) : (phadv F r inc b).2 = wrap1 F (F.add (readPhase b r) inc) := rfl

theorem phadv_block (r : PhaseReg) (inc : ν) :
    (phadv F r inc b).1 = writePhase b r (phadv F r inc b).2 := rfl

/-- The invariant of R100: a finite sum wraps into [0,1). -/
theorem phadv_range (hF : Wrap1Range F) {r : PhaseReg} {inc : ν}
    (hfin : F.isFinite (F.add (readPhase b r) inc) = true) :
    F.le F.zero (phadv F r inc b).2 = true ∧ F.lt (phadv F r inc b).2 F.one = true := by
  rw [phadv_value]
  exact hF _ hfin

/-- Settles O31: PHADV is one write to its register, of the wrapped sum it answers. -/
theorem phaseAdvance : Obligations.PhaseAdvance := by
  intro ν F r inc b b' v
  have hb : b' = writePhase b r v := phadv_block r inc
  refine ⟨phadv_value r inc, ?_, fun q hq => ?_, ?_, fun hF hfin => phadv_range hF hfin⟩
  · rw [hb, readPhase_writePhase_same]
  · rw [hb]; exact writePhase_agree v hq
  · rw [hb]; exact writePhase_sameControl r v

/-! ## PHINC -/

theorem phinc_eq (f : ν) : phinc F b f = F.mul f b.T := rfl

/-- Settles O33: a successful INIT latches `T` as `1 / rate`. -/
theorem incrementIsFrequencyTimesPeriod : Obligations.IncrementIsFrequencyTimesPeriod := by
  intro ν P V rate f b
  refine ⟨phinc_eq f, fun hm hc => ?_⟩
  rw [phinc_eq, init_of_check V hm hc, configured_T]

end Sys2Proof.Machine
end

section
/-! SUPPORT. Note to frequency (41_phase_accumulator.md R101) in exact real arithmetic with the default tuning. -/

namespace Sys2Proof.Reference

open Sys2Proof.Machine

variable (o : OpenParams ℝ)

theorem note2f_params (note : ℝ) : note2f (params o) note = 440 * (2 : ℝ) ^ ((note - 69) / 12) := by
  simp [note2f, params, defaultParams]

/-- An octave is 12 semitones. -/
theorem note2f_octave (note : ℝ) : note2f (params o) (note + 12) = 2 * note2f (params o) note := by
  have hexp : (note + 12 - 69) / 12 = (note - 69) / 12 + 1 := by ring
  rw [note2f_params, note2f_params, hexp, Real.rpow_add_one two_ne_zero]
  ring

theorem note2f_a4 : note2f (params o) 69 = 440 := by
  simp [note2f_params]

/-- A note an octave below one of known frequency has half that frequency. -/
theorem note2f_octave_below {note f : ℝ} (h : note2f (params o) (note + 12) = 2 * f) : note2f (params o) note = f :=
  mul_left_cancel₀ two_ne_zero ((note2f_octave o note).symm.trans h)

/-- Settles O32: the corner values are A4's, an octave down at a time, and one octave up. -/
theorem equalTemperedFrequency : Obligations.EqualTemperedFrequency := by
  refine ⟨fun _ _ _ => rfl, fun o => ?_⟩
  have h69 := note2f_a4 o
  have h57 : note2f (params o) 57 = 220 := note2f_octave_below o (by norm_num [h69])
  have h45 : note2f (params o) 45 = 110 := note2f_octave_below o (by norm_num [h57])
  have h33 : note2f (params o) 33 = 55 := note2f_octave_below o (by norm_num [h45])
  have h81 : note2f (params o) 81 = 880 := by
    calc note2f (params o) 81 = note2f (params o) (69 + 12) := by norm_num
      _ = 2 * note2f (params o) 69 := note2f_octave o 69
      _ = 880 := by norm_num [h69]
  exact ⟨fun note => ⟨note2f_params o note, note2f_pos o note, note2f_octave o note⟩, h69, h57, h45, h33, h81⟩

end Sys2Proof.Reference
end

section
/-! SUPPORT. One operation of the Lead and of the Bass sequencer (42_step_sequencer.md R111, R112): what the boundary
decides, what the advance writes, and what stands. -/

namespace Sys2Proof.Machine

variable {ν : Type} {P : Params ν} {b b' : Block ν}

/-! ## SEQL -/

/-- The Lead voice restrikes in this tick, when LEAD_TRIG holds `cell` at its step (R111): on a quantum boundary (R110),
with a trigger, while armed. -/
abbrev Block.Strikes (b : Block ν) (cell : Bit) : Prop := b.L_Q = 0 ∧ cell = 1 ∧ b.L_ARMED = true

theorem restrikes_iff {cell : Bit} {armed : Bool} : restrikes cell armed = true ↔ cell = 1 ∧ armed = true := by
  simp [restrikes]

/-- The first half of SEQL, on a boundary or off one: the answer, and the two registers the restrike decides. -/
theorem seql_strike {e : LeadEvent} (hP : P.wfSizes = true) (hs : b.L_STEP < P.LEAD_STEPS)
    (h : seql P b = .ok (b', e)) :
    ∃ cell note, P.LEAD_TRIG[b.L_STEP]? = some cell ∧ P.LEAD_PITCH[b'.L_PIDX]? = some note
      ∧ e = { restruck := decide (b.Strikes cell), note := note, gate := b.L_GATE }
      ∧ b'.L_PIDX = (if b.Strikes cell then addThenWrap b.L_PIDX P.LEAD_PITCH_LEN else b.L_PIDX)
      ∧ b'.L_ARMED = (if b.Strikes cell then false else if b.L_Q = 0 ∧ cell = 0 then true else b.L_ARMED) := by
  obtain ⟨-, -, ⟨htrig, -⟩, -⟩ := (wfSizes_iff P).mp hP
  obtain ⟨b1, restruck, note, hb, hn, rfl, rfl⟩ := seql_cases h
  rw [advanceLead_L_PIDX, advanceLead_L_ARMED]
  rcases hb with ⟨hq, cell, hc, hl⟩ | ⟨hq, rfl, rfl⟩
  · cases hl
    have hstrike : restrikes cell b.L_ARMED = true ↔ b.Strikes cell :=
      restrikes_iff.trans (and_iff_right hq).symm
    refine ⟨cell, note, hc, hn, ?_, ?_, ?_⟩
    · simp only [← hstrike, Bool.decide_eq_true]
    · simp only [← hstrike]
    · simp only [← hstrike, armedAfter, hq, true_and]
  · have hno (cell : Bit) : ¬ b1.Strikes cell := fun hstrike => hq hstrike.left
    exact ⟨P.LEAD_TRIG[b1.L_STEP], note, List.getElem?_eq_getElem (htrig ▸ hs), hn, by simp [hno], by simp [hno],
      by simp [hno, hq]⟩

/-- The second half of SEQL: the three registers of the advance, from their values at the start of the tick. -/
theorem seql_advance {e : LeadEvent} (h : seql P b = .ok (b', e)) :
    b'.L_Q = (advanceLead P b).L_Q ∧ b'.L_STEP = (advanceLead P b).L_STEP ∧ b'.L_GATE = (advanceLead P b).L_GATE := by
  obtain ⟨b1, restruck, note, hb, -, rfl, -⟩ := seql_cases h
  rcases hb with ⟨-, cell, -, hl⟩ | ⟨-, rfl, -⟩
  · cases hl
    simp
  · exact ⟨rfl, rfl, rfl⟩

theorem seql_agree {e : LeadEvent} (h : seql P b = .ok (b', e)) {r : Register}
    (hr : r ∉ [Register.L_Q, .L_STEP, .L_PIDX, .L_ARMED, .L_GATE]) : r.agree b' b := by
  rw [seql_frame h]
  cases r with
  | L_Q | L_STEP | L_PIDX | L_ARMED | L_GATE => simp at hr
  | L_EACC | L_ESM | L_LFO | L_PH1 | L_PH2 | B_Q | B_STEP | B_RIDX | B_ENV | B_LFO | B_PH1 | B_PH2 | D_WCUR | DBUF => rfl

theorem seql_sameControl {e : LeadEvent} (h : seql P b = .ok (b', e)) : sameControl b' b := by
  rw [seql_frame h]
  exact ⟨rfl, rfl, rfl, rfl, rfl, rfl⟩

/-- Settles O34: SEQL completes on its indexes; the boundary decides the restrike, the advance the counters. -/
theorem leadSequencerStep : Obligations.LeadSequencerStep := by
  intro ν P b hP hs hp
  obtain ⟨b', e, h⟩ := seql_completes hP hs hp
  obtain ⟨cell, note, hcell, hnote, rfl, hpidx, harmed⟩ := seql_strike hP hs h
  obtain ⟨hq, hstep, hgate⟩ := seql_advance h
  rw [advanceLead_L_Q] at hq
  rw [advanceLead_L_STEP] at hstep
  rw [advanceLead_L_GATE, gateAfter, ← ite_and] at hgate
  exact ⟨cell, note, b', hcell, hnote, h, hpidx, harmed, hq, hstep, hgate, fun _ hr => seql_agree h hr,
    seql_sameControl h⟩

/-! ## SEQB -/

theorem seqb_agree {e : BassEvent} (h : seqb P b = .ok (b', e)) {r : Register}
    (hr : r ∉ [Register.B_Q, .B_STEP, .B_RIDX]) : r.agree b' b := by
  rw [seqb_frame h]
  cases r with
  | B_Q | B_STEP | B_RIDX => simp at hr
  | L_Q | L_STEP | L_PIDX | L_ARMED | L_GATE | L_EACC | L_ESM | L_LFO | L_PH1 | L_PH2 | B_ENV | B_LFO | B_PH1 | B_PH2
  | D_WCUR | DBUF => rfl

theorem seqb_sameControl {e : BassEvent} (h : seqb P b = .ok (b', e)) : sameControl b' b := by
  rw [seqb_frame h]
  exact ⟨rfl, rfl, rfl, rfl, rfl, rfl⟩

/-- Settles O36: SEQB completes on its root index, answers the cells it read there, and writes what its advance does. -/
theorem bassSequencerStep : Obligations.BassSequencerStep := by
  intro ν P b hP hr
  obtain ⟨b', e, h⟩ := seqb_completes hP hr
  obtain ⟨arp, root, harp, hroot, hb, rfl⟩ := seqb_cases h
  have hridx := congrArg Block.B_RIDX hb
  rw [advanceBass_B_RIDX, ← ite_and] at hridx
  exact ⟨arp, root, b', harp, hroot, h, by rw [hb, advanceBass_B_Q], by rw [hb, advanceBass_B_STEP]; rfl, hridx,
    fun _ hr => seqb_agree h hr, seqb_sameControl h⟩

end Sys2Proof.Machine
end

section
/-! SUPPORT. Runs of the sequencers from the reset values (42_step_sequencer.md R110 to R112): after `k` ticks the
quantum counter reads `k mod SPQ`, and `k / SPQ` quanta are complete. -/

namespace Sys2Proof.Machine

/-! ## Counting ticks in quanta of `q` -/

section
variable {k q : Nat}

/-- The tick that completes a quantum. -/
theorem succ_div_mod_of_wrap (hq : 1 ≤ q) (h : k % q + 1 = q) : (k + 1) / q = k / q + 1 ∧ (k + 1) % q = 0 := by
  have hk := Nat.mod_add_div k q
  rw [Nat.div_mod_unique hq, Nat.mul_add_one]
  omega

/-- A tick inside a quantum. -/
theorem succ_div_mod_of_ne (hq : 1 ≤ q) (h : k % q + 1 ≠ q) : (k + 1) / q = k / q ∧ (k + 1) % q = k % q + 1 := by
  have hk := Nat.mod_add_div k q
  have hlt := Nat.mod_lt k hq
  rw [Nat.div_mod_unique hq]
  omega

end

variable {ν : Type} {P : Params ν} {b : Block ν} {q k : Nat}

/-! ## The Lead -/

/-- The Lead registers after `k` ticks with `SPQ = q`: the gate is open once LEAD_STEPS quanta are complete. -/
structure Block.LeadAfter (P : Params ν) (q k : Nat) (b : Block ν) : Prop where
  spq : b.SPQ = q
  l_q : b.L_Q = k % q
  l_step : b.L_STEP = k / q % P.LEAD_STEPS
  l_gate : b.L_GATE = true ↔ P.LEAD_STEPS ≤ k / q
  l_pidx : b.L_PIDX < P.LEAD_PITCH_LEN

theorem leadAfter_of_atReset (hP : P.wfSizes = true) (h : b.AtReset P.NUMFMT) : b.LeadAfter P b.SPQ 0 := by
  obtain ⟨-, ⟨-, hsteps, -, -, hlen, -⟩, -, -⟩ := (wfSizes_iff P).mp hP
  have hne : P.LEAD_STEPS ≠ 0 := Nat.ne_of_gt hsteps
  exact ⟨rfl, by simp [h.l_q], by simp [h.l_step], by simp [h.l_gate, hne], h.l_pidx ▸ hlen⟩

/-- The first pass is complete after this quantum when it was complete before or is completed now. -/
theorem pass_complete_succ_iff {n m : Nat} : n ≤ m + 1 ↔ (m + 1) % n = 0 ∨ n ≤ m := by
  refine ⟨fun h => ?_, ?_⟩
  · rcases Nat.eq_or_lt_of_le h with rfl | hlt
    · exact .inl (Nat.mod_self _)
    · exact .inr (Nat.le_of_lt_succ hlt)
  · rintro (h | h)
    · exact Nat.le_of_dvd m.succ_pos (Nat.dvd_of_mod_eq_zero h)
    · exact Nat.le_succ_of_le h

/-- One more SEQL: both indexes are in range, so it completes; its wrap completes a quantum. -/
theorem leadAfter_succ (hP : P.wfSizes = true) (hq : 1 ≤ q) (h : b.LeadAfter P q k) :
    ∃ b' e, seql P b = .ok (b', e) ∧ b'.LeadAfter P q (k + 1) := by
  obtain ⟨-, ⟨-, hsteps, -⟩, ⟨-, hlen, -⟩, -⟩ := (wfSizes_iff P).mp hP
  have hs : b.L_STEP < P.LEAD_STEPS := h.l_step ▸ Nat.mod_lt _ hsteps
  obtain ⟨cell, note, b', -, hnote, hb, -, -, hQ, hstep, hgate, -, hctl⟩ := leadSequencerStep ν P b hP hs h.l_pidx
  obtain ⟨-, -, hspq, -⟩ := hctl
  obtain ⟨hpidx, -⟩ := List.getElem?_eq_some_iff.mp hnote
  rw [h.l_q, h.spq] at hQ hstep hgate
  rw [h.l_step, Nat.mod_add_mod] at hstep hgate
  refine ⟨b', _, hb, ?_⟩
  by_cases hw : k % q + 1 = q
  · obtain ⟨hdiv, hmod⟩ := succ_div_mod_of_wrap hq hw
    simp only [hw, true_and, if_true] at hQ hstep hgate
    have hopen : b'.L_GATE = true ↔ P.LEAD_STEPS ≤ k / q + 1 := by
      rw [pass_complete_succ_iff, ← h.l_gate, hgate]
      simp [or_iff_not_imp_left]
    exact ⟨hspq.trans h.spq, hQ.trans hmod.symm, by rw [hdiv, hstep], by rw [hdiv, hopen], hlen ▸ hpidx⟩
  · obtain ⟨hdiv, hmod⟩ := succ_div_mod_of_ne hq hw
    simp only [hw, false_and, if_false] at hQ hstep hgate
    exact ⟨hspq.trans h.spq, hQ.trans hmod.symm, by rw [hdiv, hstep], by rw [hdiv, hgate, h.l_gate], hlen ▸ hpidx⟩

theorem seqlRun_leadAfter (hP : P.wfSizes = true) (hq : 1 ≤ q) (n : Nat) (h : b.LeadAfter P q k) :
    ∃ b', seqlRun P n b = .ok b' ∧ b'.LeadAfter P q (k + n) := by
  induction n generalizing b k with
  | zero => exact ⟨b, rfl, h⟩
  | succ n ih =>
    obtain ⟨b1, e, hb, h1⟩ := leadAfter_succ hP hq h
    obtain ⟨b', hrun, h'⟩ := ih h1
    exact ⟨b', by rw [seqlRun, hb]; exact hrun, by rwa [Nat.add_right_comm] at h'⟩

/-- Settles O35, by induction on the number of SEQLs: the quanta they complete number the steps and open the gate. -/
theorem leadGateOpensAfterFirstPass : Obligations.LeadGateOpensAfterFirstPass := by
  intro ν P b hP hreset hq n
  obtain ⟨b', hrun, h⟩ := seqlRun_leadAfter hP hq n (leadAfter_of_atReset hP hreset)
  rw [Nat.zero_add] at h
  exact ⟨b', hrun, h.l_q, h.l_step, h.l_gate.trans (Nat.le_div_iff_mul_le hq)⟩

/-! ## The Bass -/

/-- The Bass registers after `k` ticks with `SPQ = q`: the root index counts the completed passes of BASS_STEPS quanta. -/
structure Block.BassAfter (P : Params ν) (q k : Nat) (b : Block ν) : Prop where
  spq : b.SPQ = q
  b_q : b.B_Q = k % q
  b_step : b.B_STEP = k / q % P.BASS_STEPS
  b_ridx : b.B_RIDX = k / q / P.BASS_STEPS % P.BASS_ROOT_LEN

theorem bassAfter_of_atReset (h : b.AtReset P.NUMFMT) : b.BassAfter P b.SPQ 0 :=
  ⟨rfl, by simp [h.b_q], by simp [h.b_step], by simp [h.b_ridx]⟩

/-- The quantum that completes a pass advances the root index; another leaves it. -/
theorem root_succ (m n l : Nat) :
    (if (m + 1) % n = 0 then (m / n % l + 1) % l else m / n % l) = (m + 1) / n % l := by
  simp only [Nat.succ_div, Nat.dvd_iff_mod_eq_zero]
  split
  · exact Nat.mod_add_mod _ _ _
  · rfl

/-- One more SEQB: a remainder is in range, so it completes; its wrap completes a quantum. -/
theorem bassAfter_succ (hP : P.wfSizes = true) (hq : 1 ≤ q) (h : b.BassAfter P q k) :
    ∃ b' e, seqb P b = .ok (b', e) ∧ b'.BassAfter P q (k + 1) := by
  obtain ⟨-, ⟨-, -, -, -, -, hroot⟩, -, -⟩ := (wfSizes_iff P).mp hP
  have hr : b.B_RIDX < P.BASS_ROOT_LEN := h.b_ridx ▸ Nat.mod_lt _ hroot
  obtain ⟨arp, root, b', -, -, hb, hQ, hstep, hridx, -, hctl⟩ := bassSequencerStep ν P b hP hr
  obtain ⟨-, -, hspq, -⟩ := hctl
  rw [h.b_q, h.spq] at hQ hstep hridx
  rw [h.b_step, Nat.mod_add_mod] at hstep hridx
  rw [h.b_ridx] at hridx
  refine ⟨b', _, hb, ?_⟩
  by_cases hw : k % q + 1 = q
  · obtain ⟨hdiv, hmod⟩ := succ_div_mod_of_wrap hq hw
    simp only [hw, true_and, if_true, root_succ] at hQ hstep hridx
    exact ⟨hspq.trans h.spq, hQ.trans hmod.symm, by rw [hdiv, hstep], by rw [hdiv, hridx]⟩
  · obtain ⟨hdiv, hmod⟩ := succ_div_mod_of_ne hq hw
    simp only [hw, false_and, if_false] at hQ hstep hridx
    exact ⟨hspq.trans h.spq, hQ.trans hmod.symm, by rw [hdiv, hstep], by rw [hdiv, hridx]⟩

theorem seqbRun_bassAfter (hP : P.wfSizes = true) (hq : 1 ≤ q) (n : Nat) (h : b.BassAfter P q k) :
    ∃ b', seqbRun P n b = .ok b' ∧ b'.BassAfter P q (k + n) := by
  induction n generalizing b k with
  | zero => exact ⟨b, rfl, h⟩
  | succ n ih =>
    obtain ⟨b1, e, hb, h1⟩ := bassAfter_succ hP hq h
    obtain ⟨b', hrun, h'⟩ := ih h1
    exact ⟨b', by rw [seqbRun, hb]; exact hrun, by rwa [Nat.add_right_comm] at h'⟩

/-- Settles O37, by induction on the number of SEQBs: the passes they complete number the root index. -/
theorem bassRootAdvancesOncePerPass : Obligations.BassRootAdvancesOncePerPass := by
  intro ν P b hP hreset hq n
  obtain ⟨b', hrun, h⟩ := seqbRun_bassAfter hP hq n (bassAfter_of_atReset hreset)
  rw [Nat.zero_add] at h
  exact ⟨b', hrun, h.b_q, h.b_step, by rw [h.b_ridx, Nat.div_div_eq_div_mul, Nat.mul_comm]⟩

end Sys2Proof.Machine
end

section
/-! SUPPORT. One step of the Lead and of the Bass envelope (43_envelope.md R120, R121): the registers it writes, the
value it answers, and what stands. -/

namespace Sys2Proof.Machine

variable {ν : Type} {P : Params ν} {b : Block ν}

/-! ## ENVL -/

@[simp] theorem envl_L_EACC (restruck gate : Bool) :
    (envl P restruck gate b).1.L_EACC = leadAccumulator P restruck b := rfl

@[simp] theorem envl_L_ESM (restruck gate : Bool) :
    (envl P restruck gate b).1.L_ESM = smooth P b.L_ESM (leadAccumulator P restruck b) := rfl

@[simp] theorem envl_T (restruck gate : Bool) : (envl P restruck gate b).1.T = b.T := rfl

theorem envl_value (restruck gate : Bool) :
    (envl P restruck gate b).2 = P.NUMFMT.mul (envl P restruck gate b).1.L_ESM (b2n P.NUMFMT gate) := rfl

/-- Corner case (a): behind a closed gate a finite smoothed value is answered as a zero. -/
theorem envl_muted (hF : ZeroMul P.NUMFMT) (restruck : Bool)
    (hfin : P.NUMFMT.isFinite (envl P restruck false b).1.L_ESM = true) :
    sameNum P.NUMFMT (envl P restruck false b).2 P.NUMFMT.zero := by
  obtain ⟨-, hzero⟩ := hF _ hfin
  exact hzero

theorem envl_agree (restruck gate : Bool) {r : Register} (hr : r ∉ [Register.L_EACC, .L_ESM]) :
    r.agree (envl P restruck gate b).1 b := by
  cases r with
  | L_EACC | L_ESM => simp at hr
  | L_Q | L_STEP | L_PIDX | L_ARMED | L_GATE | L_LFO | L_PH1 | L_PH2 | B_Q | B_STEP | B_RIDX | B_ENV | B_LFO | B_PH1
  | B_PH2 | D_WCUR | DBUF => rfl

theorem envl_sameControl (restruck gate : Bool) : sameControl (envl P restruck gate b).1 b :=
  ⟨rfl, rfl, rfl, rfl, rfl, rfl⟩

/-- Settles O38: the three equations of R120, the mute by `zero_mul`, and the frame. -/
theorem leadEnvelopeStep : Obligations.LeadEnvelopeStep := by
  intro ν P restruck gate b F b' start
  refine ⟨envl_L_EACC restruck gate, envl_L_ESM restruck gate, envl_value restruck gate, fun hF hfin hgate => ?_,
    fun r hr => envl_agree restruck gate hr, envl_sameControl restruck gate⟩
  subst hgate
  exact envl_muted hF restruck hfin

/-! ## ENVB -/

@[simp] theorem envb_value_restruck : (envb P true b).2 = P.NUMFMT.one := rfl

@[simp] theorem envb_value : (envb P false b).2 = b.B_ENV := rfl

/-- The register after a step is the value answered less one decrement. -/
theorem envb_B_ENV (restruck : Bool) : (envb P restruck b).1.B_ENV
    = P.NUMFMT.sub (envb P restruck b).2 (P.NUMFMT.div P.NUMFMT.one (P.NUMFMT.ofInt b.SPQ)) := rfl

@[simp] theorem envb_SPQ (restruck : Bool) : (envb P restruck b).1.SPQ = b.SPQ := rfl

theorem envb_agree (restruck : Bool) {r : Register} (hr : r ≠ .B_ENV) : r.agree (envb P restruck b).1 b := by
  cases r with
  | B_ENV => exact absurd rfl hr
  | L_Q | L_STEP | L_PIDX | L_ARMED | L_GATE | L_EACC | L_ESM | L_LFO | L_PH1 | L_PH2 | B_Q | B_STEP | B_RIDX | B_LFO
  | B_PH1 | B_PH2 | D_WCUR | DBUF => rfl

theorem envb_sameControl (restruck : Bool) : sameControl (envb P restruck b).1 b :=
  ⟨rfl, rfl, rfl, rfl, rfl, rfl⟩

/-- Settles O40: the value before the decrement, the decremented register, and the frame. -/
theorem bassEnvelopeStep : Obligations.BassEnvelopeStep :=
  fun _ _ restruck _ =>
    ⟨rfl, envb_B_ENV restruck, fun _ hr => envb_agree restruck hr, envb_sameControl restruck⟩

end Sys2Proof.Machine
end

section
/-! SUPPORT. The shapes of the two envelopes in exact real arithmetic (43_envelope.md R120, R121): the Lead accumulator
rises in equal steps to 1 and stays, the Bass envelope falls in equal steps. -/

namespace Sys2Proof.Reference

open Sys2Proof.Machine

/-! ## The Lead ramp -/

section
variable (o : OpenParams ℝ) {b : Block ℝ}

theorem leadAccumulator_params (restruck : Bool) (b : Block ℝ) : leadAccumulator (params o) restruck b
    = clamp numfmt ((if restruck then 0 else b.L_EACC) + 4 * b.T) 0 1 := by
  simp [leadAccumulator, params, defaultParams]

theorem leadAccumulator_mem_Icc (restruck : Bool) (b : Block ℝ) :
    leadAccumulator (params o) restruck b ∈ Set.Icc 0 1 := by
  rw [leadAccumulator_params]
  exact ⟨le_clamp zero_le_one, clamp_le⟩

/-- The weights of SMOOTH are not negative and their sum is 1 (40_waveform_primitives.md R95). -/
theorem smooth_mem_Icc {s u : ℝ} (hs : s ∈ Set.Icc 0 1) (hu : u ∈ Set.Icc 0 1) :
    smooth (params o) s u ∈ Set.Icc 0 1 := by
  obtain ⟨hs0, hs1⟩ := hs
  obtain ⟨hu0, hu1⟩ := hu
  have hstep := smooth_sub o s u
  constructor <;> linarith

theorem envl_L_ESM_mem_Icc (restruck gate : Bool) (h : b.L_ESM ∈ Set.Icc 0 1) :
    (envl (params o) restruck gate b).1.L_ESM ∈ Set.Icc 0 1 :=
  smooth_mem_Icc o h (leadAccumulator_mem_Icc o restruck b)

end

/-- An increment that is not negative carries a saturated ramp to a saturated ramp. -/
theorem clamp_min_one_add {x d : ℝ} (hx : 0 ≤ x) (hd : 0 ≤ d) :
    clamp numfmt (min x 1 + d) 0 1 = min (x + d) 1 := by
  have hpos : 0 ≤ min x 1 + d := add_nonneg (le_min hx zero_le_one) hd
  have hone : 1 ≤ 1 + d := le_add_of_nonneg_right hd
  rw [clamp_numfmt, max_eq_left hpos, ← min_add_add_right, min_assoc, min_eq_right hone]

/-- The Lead envelope `k` ticks into a ramp with the sample period `t`: the accumulator on the saturated ramp, the
smoothed value in [0,1]. -/
structure LeadRamp (t : ℝ) (k : Nat) (b : Block ℝ) : Prop where
  period : b.T = t
  l_eacc : b.L_EACC = min ((k : ℝ) * 4 * t) 1
  l_esm : b.L_ESM ∈ Set.Icc 0 1

section
variable (o : OpenParams ℝ) {t : ℝ} {k : Nat} {b : Block ℝ}

theorem leadRamp_succ (ht : 0 ≤ t) (gate : Bool) (h : LeadRamp t k b) :
    LeadRamp t (k + 1) (envl (params o) false gate b).1 := by
  refine ⟨h.period, ?_, envl_L_ESM_mem_Icc o false gate h.l_esm⟩
  calc (envl (params o) false gate b).1.L_EACC = clamp numfmt (b.L_EACC + 4 * b.T) 0 1 := leadAccumulator_params o _ b
    _ = clamp numfmt (min ((k : ℝ) * 4 * t) 1 + 4 * t) 0 1 := by rw [h.l_eacc, h.period]
    _ = min ((k : ℝ) * 4 * t + 4 * t) 1 := clamp_min_one_add (by positivity) (by positivity)
    _ = min (((k + 1 : Nat) : ℝ) * 4 * t) 1 := by rw [Nat.cast_add_one, add_one_mul, add_mul]

theorem envlRun_leadRamp (ht : 0 ≤ t) (n : Nat) (h : LeadRamp t k b) :
    LeadRamp t (k + n) (envlRun (params o) n b) := by
  induction n generalizing b k with
  | zero => exact h
  | succ n ih =>
    have hrun := ih (leadRamp_succ o ht true h)
    rwa [Nat.add_right_comm] at hrun

end

/-- Settles O39, by induction on the number of ENVLs: an accumulator at 0 is a ramp after 0 ticks. -/
theorem leadEnvelopeRamp : Obligations.LeadEnvelopeRamp := by
  intro o b hT hacc hsm0 hsm1 n b'
  have hstart : LeadRamp b.T 0 b := ⟨rfl, by simp [hacc], hsm0, hsm1⟩
  obtain ⟨-, heacc, hesm0, hesm1⟩ := envlRun_leadRamp o hT (n + 1) hstart
  rw [Nat.zero_add, Nat.cast_add_one] at heacc
  exact ⟨heacc, hesm0, hesm1⟩

/-! ## The Bass decay -/

section
variable {P : Params ℝ} (hN : P.NUMFMT = numfmt)
include hN

theorem envb_B_ENV_numfmt (restruck : Bool) (b : Block ℝ) :
    (envb P restruck b).1.B_ENV = (envb P restruck b).2 - 1 / (b.SPQ : ℝ) := by
  simp [envb_B_ENV, hN]

theorem envb_restruck_numfmt (b : Block ℝ) : (envb P true b).2 = 1 := by
  simp [hN]

/-- Without a restrike the register falls by `1 / SPQ` a step. -/
theorem envbRun_B_ENV (n : Nat) (b : Block ℝ) : (envbRun P n b).B_ENV = b.B_ENV - (n : ℝ) / (b.SPQ : ℝ) := by
  induction n generalizing b with
  | zero => simp [envbRun]
  | succ n ih =>
    rw [envbRun, ih, envb_B_ENV_numfmt hN, envb_value, envb_SPQ, Nat.cast_add_one]
    ring

end

/-- Settles O41: a restrike answers 1 and stores one decrement less, and each step after it takes one more. -/
theorem bassEnvelopeDecaysLinearly : Obligations.BassEnvelopeDecaysLinearly := by
  intro P b hN _ k
  refine ⟨envb_restruck_numfmt hN b, ?_⟩
  rw [envb_value, envbRun_B_ENV hN, envb_B_ENV_numfmt hN, envb_restruck_numfmt hN, envb_SPQ]
  ring

end Sys2Proof.Reference
end

section
/-! SUPPORT. The voices in any number format (44_voices.md R130 to R132): the registers each writes, the sample it
answers on the phases it stores, what stands, and that neither voice reads a register of the other. -/

namespace Sys2Proof.Machine

variable {ν : Type} {P : Params ν} {b b' c : Block ν}

/-! ## LEAD -/

theorem leadVoice_L_LFO (e : LeadEvent) : (leadVoice P e b).1.L_LFO
    = wrap1 P.NUMFMT (P.NUMFMT.add b.L_LFO (P.NUMFMT.mul P.LEAD_LFO_HZ b.T)) := rfl

/-- The Lead note in the tick, on the vibrato phase after its advance. -/
abbrev leadNote (P : Params ν) (e : LeadEvent) (b : Block ν) : ν :=
  modulatedNote P e.note (leadVoice P e b).1.L_LFO (envl P e.restruck e.gate b).2

theorem leadVoice_L_PH1 (e : LeadEvent) : (leadVoice P e b).1.L_PH1
    = wrap1 P.NUMFMT (P.NUMFMT.add b.L_PH1 (P.NUMFMT.mul (note2f P (leadNote P e b)) b.T)) := rfl

theorem leadVoice_L_PH2 (e : LeadEvent) : (leadVoice P e b).1.L_PH2
    = wrap1 P.NUMFMT (P.NUMFMT.add b.L_PH2
        (P.NUMFMT.mul (note2f P (P.NUMFMT.add (leadNote P e b) P.LEAD_DETUNE)) b.T)) := rfl

/-- The sample is on the two phases the voice stores. -/
theorem leadVoice_value (e : LeadEvent) : (leadVoice P e b).2 = P.NUMFMT.add
    (P.NUMFMT.mul (P.NUMFMT.mul (pdsaw P (leadVoice P e b).1.L_PH1 P.LEAD_DUTY1) P.LEAD_GAIN)
      (envl P e.restruck e.gate b).2)
    (P.NUMFMT.mul (P.NUMFMT.mul (pdsaw P (leadVoice P e b).1.L_PH2 P.LEAD_DUTY2) P.LEAD_GAIN)
      (envl P e.restruck e.gate b).2) := rfl

theorem lead_sameControl {x : ν} (h : lead P b = .ok (b', x)) : sameControl b' b := by
  rw [lead_frame h]
  exact ⟨rfl, rfl, rfl, rfl, rfl, rfl⟩

theorem lead_sameBass {x : ν} (h : lead P b = .ok (b', x)) : sameBass b' b := by
  rw [lead_frame h]
  exact ⟨rfl, rfl, rfl, rfl, rfl, rfl, rfl⟩

theorem lead_sameDelay {x : ν} (h : lead P b = .ok (b', x)) : sameDelay b' b := by
  rw [lead_frame h]
  exact ⟨rfl, rfl⟩

/-- Settles O42: SEQL leaves the period and the three phases alone, so the voice after it advances them from their
values before it; the vibrato phase gives the note, the note the two oscillator phases, and those the sample. -/
theorem leadVoiceSample : Obligations.LeadVoiceSample := by
  intro ν P b b1 e h F env vib nm ph1 ph2 s1 s2
  have hT : b1.T = b.T := by rw [seql_frame h]
  have hlfo : b1.L_LFO = b.L_LFO := by rw [seql_frame h]
  have hph1 : b1.L_PH1 = b.L_PH1 := by rw [seql_frame h]
  have hph2 : b1.L_PH2 = b.L_PH2 := by rw [seql_frame h]
  have hvib : (leadVoice P e b1).1.L_LFO = vib := by rw [leadVoice_L_LFO, hT, hlfo]
  have hnm : leadNote P e b1 = nm := by rw [leadNote, hvib, modulatedNote]
  have hosc1 : (leadVoice P e b1).1.L_PH1 = ph1 := by rw [leadVoice_L_PH1, hnm, hT, hph1]
  have hosc2 : (leadVoice P e b1).1.L_PH2 = ph2 := by rw [leadVoice_L_PH2, hnm, hT, hph2]
  have hout : (leadVoice P e b1).2 = F.add s1 s2 := by rw [leadVoice_value, hosc1, hosc2]
  have hlead : lead P b = .ok ((leadVoice P e b1).1, F.add s1 s2) := by rw [lead_of_seql h, ← hout]
  exact ⟨_, hlead, hvib, hosc1, hosc2, rfl, rfl, rfl, rfl, rfl, rfl, rfl, lead_sameControl hlead, lead_sameBass hlead,
    lead_sameDelay hlead⟩

/-! ## BASS -/

theorem bassVoice_B_LFO (e : BassEvent) : (bassVoice P e b).1.B_LFO
    = wrap1 P.NUMFMT (P.NUMFMT.add b.B_LFO (P.NUMFMT.mul P.BASS_LFO_HZ b.T)) := rfl

theorem bassVoice_B_PH1 (e : BassEvent) : (bassVoice P e b).1.B_PH1
    = wrap1 P.NUMFMT (P.NUMFMT.add b.B_PH1 (P.NUMFMT.mul (note2f P (P.NUMFMT.ofInt e.note)) b.T)) := rfl

theorem bassVoice_B_PH2 (e : BassEvent) : (bassVoice P e b).1.B_PH2
    = wrap1 P.NUMFMT (P.NUMFMT.add b.B_PH2 (P.NUMFMT.mul (note2f P (P.NUMFMT.ofInt (e.note - P.SEMIS))) b.T)) := rfl

/-- The sample is on the three phases the voice stores. -/
theorem bassVoice_value (e : BassEvent) : (bassVoice P e b).2 = P.NUMFMT.add
    (P.NUMFMT.mul (P.NUMFMT.mul (pwm P (bassVoice P e b).1.B_PH1 (bassWidth P (bassVoice P e b).1.B_LFO)) P.BASS_GAIN)
      (envb P e.restruck b).2)
    (P.NUMFMT.mul (pdsaw P (bassVoice P e b).1.B_PH2 P.BASS_SUB_DUTY) P.BASS_GAIN) := rfl

theorem bass_sameControl {x : ν} (h : bass P b = .ok (b', x)) : sameControl b' b := by
  rw [bass_frame h]
  exact ⟨rfl, rfl, rfl, rfl, rfl, rfl⟩

theorem bass_sameLead {x : ν} (h : bass P b = .ok (b', x)) : sameLead b' b := by
  rw [bass_frame h]
  exact ⟨rfl, rfl, rfl, rfl, rfl, rfl, rfl, rfl, rfl, rfl⟩

theorem bass_sameDelay {x : ν} (h : bass P b = .ok (b', x)) : sameDelay b' b := by
  rw [bass_frame h]
  exact ⟨rfl, rfl⟩

/-- Settles O44: SEQB leaves the period and the three phases alone, so the voice after it advances them from their
values before it; the LFO phase gives the width, and the three phases the sample. -/
theorem bassVoiceSample : Obligations.BassVoiceSample := by
  intro ν P b b1 e h F env slow w ph1 ph2 s1 s2
  have hT : b1.T = b.T := by rw [seqb_frame h]
  have hlfo : b1.B_LFO = b.B_LFO := by rw [seqb_frame h]
  have hph1 : b1.B_PH1 = b.B_PH1 := by rw [seqb_frame h]
  have hph2 : b1.B_PH2 = b.B_PH2 := by rw [seqb_frame h]
  have hslow : (bassVoice P e b1).1.B_LFO = slow := by rw [bassVoice_B_LFO, hT, hlfo]
  have hosc1 : (bassVoice P e b1).1.B_PH1 = ph1 := by rw [bassVoice_B_PH1, hT, hph1]
  have hosc2 : (bassVoice P e b1).1.B_PH2 = ph2 := by rw [bassVoice_B_PH2, hT, hph2]
  have hout : (bassVoice P e b1).2 = F.add s1 s2 := by rw [bassVoice_value, hslow, hosc1, hosc2, bassWidth]
  have hbass : bass P b = .ok ((bassVoice P e b1).1, F.add s1 s2) := by rw [bass_of_seqb h, ← hout]
  exact ⟨_, hbass, hslow, hosc1, hosc2, rfl, rfl, rfl, rfl, bass_sameControl hbass, bass_sameLead hbass,
    bass_sameDelay hbass⟩

/-! ## The two voices together (R132) -/

/-- `b` with the Bass registers of `c`. -/
def Block.withBass (b c : Block ν) : Block ν :=
  { b with
    B_Q := c.B_Q, B_STEP := c.B_STEP, B_RIDX := c.B_RIDX, B_ENV := c.B_ENV, B_LFO := c.B_LFO, B_PH1 := c.B_PH1
    B_PH2 := c.B_PH2 }

/-- `b` with the Lead registers of `c`. -/
def Block.withLead (b c : Block ν) : Block ν :=
  { b with
    L_Q := c.L_Q, L_STEP := c.L_STEP, L_PIDX := c.L_PIDX, L_ARMED := c.L_ARMED, L_GATE := c.L_GATE, L_EACC := c.L_EACC
    L_ESM := c.L_ESM, L_LFO := c.L_LFO, L_PH1 := c.L_PH1, L_PH2 := c.L_PH2 }

@[simp] theorem withBass_L_Q : (b.withBass c).L_Q = b.L_Q := rfl
@[simp] theorem withBass_L_STEP : (b.withBass c).L_STEP = b.L_STEP := rfl
@[simp] theorem withBass_L_PIDX : (b.withBass c).L_PIDX = b.L_PIDX := rfl

@[simp] theorem withLead_B_STEP : (b.withLead c).B_STEP = b.B_STEP := rfl
@[simp] theorem withLead_B_RIDX : (b.withLead c).B_RIDX = b.B_RIDX := rfl

/-- The Bass registers are put back. -/
theorem withBass_withBass_self : (b.withBass c).withBass b = b := rfl

/-- The two voices have no register in common. -/
theorem withLead_withBass_comm {l : Block ν} : (b.withLead l).withBass c = (b.withBass c).withLead l := rfl

/-! ### The Lead reads no Bass register -/

theorem leadBoundary_withBass (cell : Bit) : leadBoundary P cell (b.withBass c)
    = ((leadBoundary P cell b).1.withBass c, (leadBoundary P cell b).2) := rfl

theorem advanceLead_withBass : advanceLead P (b.withBass c) = (advanceLead P b).withBass c := by
  unfold advanceLead
  by_cases hwrap : b.L_Q + 1 = b.SPQ
  · rw [if_pos hwrap]
    exact if_pos hwrap
  · rw [if_neg hwrap]
    exact if_neg hwrap

theorem seql_withBass : seql P (b.withBass c) = (seql P b).map fun r => (r.1.withBass c, r.2) := by
  unfold seql
  by_cases hq : b.L_Q = 0
  · rw [if_pos hq, if_pos (withBass_L_Q.trans hq), withBass_L_STEP]
    cases readLeadTrig P b.L_STEP with
    | error f => rfl
    | ok cell =>
      simp only [bind, Except.bind, leadBoundary_withBass, advanceLead_withBass, withBass_L_PIDX]
      cases readLeadPitch P (leadBoundary P cell b).1.L_PIDX with
      | error f => rfl
      | ok note => rfl
  · rw [if_neg hq, if_neg (withBass_L_Q.trans_ne hq)]
    simp only [bind, Except.bind, advanceLead_withBass, withBass_L_PIDX]
    cases readLeadPitch P b.L_PIDX with
    | error f => rfl
    | ok note => rfl

theorem leadVoice_withBass (e : LeadEvent) :
    leadVoice P e (b.withBass c) = ((leadVoice P e b).1.withBass c, (leadVoice P e b).2) := rfl

theorem lead_withBass {x : ν} (h : lead P b = .ok (b', x)) : lead P (b.withBass c) = .ok (b'.withBass c, x) := by
  obtain ⟨b1, e, hs, rfl, rfl⟩ := lead_cases h
  have hs' : seql P (b.withBass c) = .ok (b1.withBass c, e) := by rw [seql_withBass, hs]; rfl
  rw [lead_of_seql hs', leadVoice_withBass]

/-! ### The Bass reads no Lead register -/

theorem advanceBass_withLead : advanceBass P (b.withLead c) = (advanceBass P b).withLead c := by
  unfold advanceBass
  by_cases hwrap : b.B_Q + 1 = b.SPQ
  · rw [if_pos hwrap]
    exact if_pos hwrap
  · rw [if_neg hwrap]
    exact if_neg hwrap

theorem seqb_withLead : seqb P (b.withLead c) = (seqb P b).map fun r => (r.1.withLead c, r.2) := by
  simp only [seqb, withLead_B_STEP, withLead_B_RIDX, advanceBass_withLead, bind, Except.bind]
  cases readArp P (b.B_STEP % P.ARP_LEN) with
  | error f => rfl
  | ok arp =>
    cases readBassRoot P b.B_RIDX with
    | error f => rfl
    | ok root => rfl

theorem bassVoice_withLead (e : BassEvent) :
    bassVoice P e (b.withLead c) = ((bassVoice P e b).1.withLead c, (bassVoice P e b).2) := rfl

theorem bass_withLead {x : ν} (h : bass P b = .ok (b', x)) : bass P (b.withLead c) = .ok (b'.withLead c, x) := by
  obtain ⟨b1, e, hs, rfl, rfl⟩ := bass_cases h
  have hs' : seqb P (b.withLead c) = .ok (b1.withLead c, e) := by rw [seqb_withLead, hs]; rfl
  rw [bass_of_seqb hs', bassVoice_withLead]

/-- Settles O45: the block in between is the last one with the Bass registers of the first put back. The Lead reaches it
because it reads no Bass register; the Bass goes on from it as from the first, whose Lead registers it does not read. -/
theorem voicesDoNotInteract : Obligations.VoicesDoNotInteract := by
  intro ν P b b1 b2 xb xl hbass hlead
  have hb1 : b1 = b.withBass b1 := bass_frame hbass
  have hb2 : b2 = b1.withLead b2 := lead_frame hlead
  have hback : b1.withBass b = b := by rw [hb1, withBass_withBass_self]
  have hmid : b2.withBass b = b.withLead b2 := by
    calc b2.withBass b = (b1.withLead b2).withBass b := congrArg (Block.withBass · b) hb2
      _ = (b1.withBass b).withLead b2 := withLead_withBass_comm
      _ = b.withLead b2 := by rw [hback]
  refine ⟨b2.withBass b, ?_, ?_⟩
  · have hfirst : lead P (b1.withBass b) = .ok (b2.withBass b, xl) := lead_withBass hlead
    rwa [hback] at hfirst
  · rw [hmid, bass_withLead hbass, ← hb2]

end Sys2Proof.Machine
end

section
/-! SUPPORT. The Lead sample in exact real arithmetic with the default gains (44_voices.md R130): silent behind a
closed gate, and bounded by twice the gain. -/

namespace Sys2Proof.Reference

open Sys2Proof.Machine

/-- PDSAW is minus a cosine (40_waveform_primitives.md R92). -/
theorem abs_pdsaw_le_one {P : Params ℝ} (hN : P.NUMFMT = numfmt) (phase duty : ℝ) : |pdsaw P phase duty| ≤ 1 := by
  rw [pdsaw_numfmt hN, abs_neg]
  exact Real.abs_cos_le_one _

section
variable (o : OpenParams ℝ) {b b' : Block ℝ}

theorem envl_value_params (restruck gate : Bool) : (envl (params o) restruck gate b).2
    = if gate then (envl (params o) restruck gate b).1.L_ESM else 0 := by
  cases gate with
  | true => simp [envl_value, b2n]
  | false => simp [envl_value, b2n]

theorem envl_value_mem_Icc (restruck gate : Bool) (h : b.L_ESM ∈ Set.Icc 0 1) :
    (envl (params o) restruck gate b).2 ∈ Set.Icc 0 1 := by
  rw [envl_value_params]
  split
  · exact envl_L_ESM_mem_Icc o restruck gate h
  · exact Set.left_mem_Icc.mpr zero_le_one

/-- Gain and envelope are common to the two sawtooths. -/
theorem leadVoice_value_params (e : LeadEvent) : (leadVoice (params o) e b).2
    = (pdsaw (params o) (leadVoice (params o) e b).1.L_PH1 (params o).LEAD_DUTY1
        + pdsaw (params o) (leadVoice (params o) e b).1.L_PH2 (params o).LEAD_DUTY2) * 0.15
      * (envl (params o) e.restruck e.gate b).2 := by
  have hgain : (params o).LEAD_GAIN = 0.15 := by norm_num [params, defaultParams]
  rw [leadVoice_value, hgain, params_numfmt]
  simp only [numfmt_add, numfmt_mul]
  ring

theorem leadVoice_value_closed {e : LeadEvent} (hg : e.gate = false) : (leadVoice (params o) e b).2 = 0 := by
  rw [leadVoice_value_params, envl_value_params, hg, if_neg Bool.false_ne_true, mul_zero]

theorem abs_leadVoice_value_le (e : LeadEvent) (h : b.L_ESM ∈ Set.Icc 0 1) : |(leadVoice (params o) e b).2| ≤ 0.3 := by
  obtain ⟨henv0, henv1⟩ := envl_value_mem_Icc o e.restruck e.gate h
  rw [leadVoice_value_params]
  set saw1 := pdsaw (params o) (leadVoice (params o) e b).1.L_PH1 (params o).LEAD_DUTY1
  set saw2 := pdsaw (params o) (leadVoice (params o) e b).1.L_PH2 (params o).LEAD_DUTY2
  set env := (envl (params o) e.restruck e.gate b).2
  have hsaws : |saw1 + saw2| ≤ 1 + 1 :=
    (abs_add_le _ _).trans (add_le_add (abs_pdsaw_le_one rfl _ _) (abs_pdsaw_le_one rfl _ _))
  calc |(saw1 + saw2) * 0.15 * env| = |saw1 + saw2| * 0.15 * env := by
        rw [abs_mul, abs_mul, abs_of_nonneg henv0, abs_of_nonneg (show (0 : ℝ) ≤ 0.15 by norm_num)]
    _ ≤ (1 + 1) * 0.15 * 1 := by gcongr
    _ = 0.3 := by norm_num

end

/-- Settles O43: SEQL answers the gate as it stood and leaves the smoothed envelope alone, so both clauses are the
voice's: a closed gate makes the envelope 0, an open one answers a smoothed value in [0,1]. -/
theorem leadMutedUntilGate : Obligations.LeadMutedUntilGate := by
  intro o b b' out h
  obtain ⟨b1, e, hs, -, rfl⟩ := lead_cases h
  obtain ⟨hgate, -⟩ := seql_gate hs
  have hesm : b1.L_ESM = b.L_ESM := by rw [seql_frame hs]
  exact ⟨fun hclosed => leadVoice_value_closed o (hgate.trans hclosed),
    fun h0 h1 => abs_leadVoice_value_le o e ⟨h0.trans_eq hesm.symm, hesm.trans_le h1⟩⟩

end Sys2Proof.Reference
end

section
/-! SUPPORT. One delay step in any number format (45_delay.md R140): what it writes and what it leaves unchanged. -/

namespace Sys2Proof.Machine

variable {ν : Type} {P : Params ν} {b b' : Block ν} {x y : ν}

/-- What DLY writes at the cursor: the input plus the fed back output. -/
def echo (P : Params ν) (x y : ν) : ν := P.NUMFMT.add x (P.NUMFMT.mul P.FB y)

variable [DecidableEq ν]

theorem dly_D_WCUR (h : dly P x b = .ok (b', y)) : b'.D_WCUR = (b.D_WCUR + 1) % P.DELAY_CAP := by
  obtain ⟨-, -, -, rfl⟩ := dly_cases h
  rfl

theorem dly_DBUF (h : dly P x b = .ok (b', y)) :
    b'.DBUF = b.DBUF.write P.NUMFMT.zero b.D_WCUR (echo P x y) := by
  obtain ⟨-, -, -, rfl⟩ := dly_cases h
  rfl

/-- What a cell reads after a delay step. -/
theorem dly_read (h : dly P x b = .ok (b', y)) (hm : Memory.wf P.NUMFMT.zero b.DBUF = true) (a : Nat) :
    b'.DBUF.read P.NUMFMT.zero a = if a = b.D_WCUR then echo P x y else b.DBUF.read P.NUMFMT.zero a := by
  rw [dly_DBUF h, read_write hm]

theorem dly_agree (h : dly P x b = .ok (b', y)) {r : Register} (hr : r ∉ [Register.D_WCUR, .DBUF]) :
    r.agree b' b := by
  obtain ⟨-, -, -, rfl⟩ := dly_cases h
  cases r with
  | D_WCUR | DBUF => simp at hr
  | L_Q | L_STEP | L_PIDX | L_ARMED | L_GATE | L_EACC | L_ESM | L_LFO | L_PH1 | L_PH2 | B_Q | B_STEP | B_RIDX | B_ENV
  | B_LFO | B_PH1 | B_PH2 => rfl

theorem dly_sameControl (h : dly P x b = .ok (b', y)) : sameControl b' b := by
  obtain ⟨-, -, -, rfl⟩ := dly_cases h
  exact ⟨rfl, rfl, rfl, rfl, rfl, rfl⟩

/-- Settles O46: DLY completes with its cursor in range; the one buffer write is read back at the cursor alone. -/
theorem delayStep : Obligations.DelayStep := by
  intro ν _ P x b hw hd hm F y
  have h : dly P x b = .ok (_, y) := dly_completes x hw
  exact ⟨delayTap_eq P b hw hd, _, h, (dly_read h hm _).trans (if_pos rfl),
    fun a ha => (dly_read h hm a).trans (if_neg ha), dly_D_WCUR h, fun _ hr => dly_agree h hr, dly_sameControl h⟩

end Sys2Proof.Machine
end

section
/-! SUPPORT. The delay line is a queue (45_delay.md R141): the cells the next taps will read are its contents, and one
DLY takes the output from its front and puts the echo at its back. -/

namespace Sys2Proof.Machine

variable {ν : Type} {P : Params ν} {b b' : Block ν} {x y : ν} {j : Nat}

/-! ## The cells of the taps to come -/

/-- How many ticks after its write a cell is read. With `DTIME = 0` the tap is the cursor's own cell, read before it is
written (20_memory.md R60), so its content is a whole capacity old. -/
def delayLatency (P : Params ν) (b : Block ν) : Nat := if b.DTIME = 0 then P.DELAY_CAP else b.DTIME

/-- The cell the tap reads `j` ticks from now. -/
def futureTap (P : Params ν) (b : Block ν) (j : Nat) : Nat :=
  delayTap P { b with D_WCUR := (b.D_WCUR + j) % P.DELAY_CAP }

theorem delayLatency_pos (hd : b.DTIME < P.DELAY_CAP) : 0 < delayLatency P b := by
  unfold delayLatency
  split <;> omega

theorem futureTap_zero (hw : b.D_WCUR < P.DELAY_CAP) : futureTap P b 0 = delayTap P b := by
  rw [futureTap, Nat.add_zero, Nat.mod_eq_of_lt hw]

/-- A future tap meets the cursor's cell when it is a whole number of capacities past the delay time. -/
theorem futureTap_eq_cursor_iff (hw : b.D_WCUR < P.DELAY_CAP) :
    futureTap P b j = b.D_WCUR ↔ (P.DELAY_CAP : Int) ∣ j - b.DTIME := by
  have hcap : (P.DELAY_CAP : Int) ≠ 0 := by omega
  have hcur : (b.D_WCUR : Int) % P.DELAY_CAP = b.D_WCUR := Int.emod_eq_of_lt (by omega) (by omega)
  have htap : (futureTap P b j : Int) = (b.D_WCUR + j - b.DTIME) % P.DELAY_CAP := by
    rw [futureTap, delayTap, Int.toNat_of_nonneg (Int.emod_nonneg _ hcap), Int.natCast_mod, Int.emod_sub_emod,
      Int.natCast_add]
  calc futureTap P b j = b.D_WCUR
      ↔ ((b.D_WCUR : Int) + j - b.DTIME) % P.DELAY_CAP = (b.D_WCUR : Int) % P.DELAY_CAP := by rw [hcur]; omega
    _ ↔ (P.DELAY_CAP : Int) ∣ b.D_WCUR + j - b.DTIME - b.D_WCUR := by
        rw [Int.emod_eq_emod_iff_emod_sub_eq_zero, Int.dvd_iff_emod_eq_zero]
    _ ↔ (P.DELAY_CAP : Int) ∣ j - b.DTIME := by rw [add_sub_assoc, add_sub_cancel_left]

/-- The cell written now is read again when the latency has passed. -/
theorem futureTap_delayLatency (hw : b.D_WCUR < P.DELAY_CAP) : futureTap P b (delayLatency P b) = b.D_WCUR := by
  rw [futureTap_eq_cursor_iff hw, delayLatency]
  split
  · next h0 => simp [h0]
  · simp

/-- Until then no later tap reads it. -/
theorem futureTap_ne_cursor (hw : b.D_WCUR < P.DELAY_CAP) (hd : b.DTIME < P.DELAY_CAP) (h0 : 0 < j)
    (hj : j < delayLatency P b) : futureTap P b j ≠ b.D_WCUR := by
  rw [Ne, futureTap_eq_cursor_iff hw]
  intro hdvd
  have hzero := Int.eq_zero_of_abs_lt_dvd hdvd
  rw [delayLatency] at hj
  split at hj <;> rw [abs_lt] at hzero <;> omega

/-! ## The queue -/

/-- What the cell of the tap `j` ticks from now holds. -/
def futureRead (P : Params ν) (b : Block ν) (j : Nat) : ν := b.DBUF.read P.NUMFMT.zero (futureTap P b j)

/-- The queue's contents: what the next taps read, before anything written from now on. -/
def upcoming (P : Params ν) (b : Block ν) : List ν := (List.range (delayLatency P b)).map (futureRead P b)

theorem upcoming_of_empty (h : b.DBUF = []) :
    upcoming P b = List.replicate (delayLatency P b) P.NUMFMT.zero := by
  have hread : futureRead P b = fun _ => P.NUMFMT.zero := by
    funext j
    rw [futureRead, h, read_nil]
  simp [upcoming, hread]

theorem length_upcoming : (upcoming P b).length = delayLatency P b := by
  simp [upcoming]

variable [DecidableEq ν]

/-- What DLY needs of its registers: cursor and delay time below the capacity, the buffer canonical. -/
structure Block.DelayInRange (P : Params ν) (b : Block ν) : Prop where
  d_wcur : b.D_WCUR < P.DELAY_CAP
  dtime : b.DTIME < P.DELAY_CAP
  memory : Memory.wf P.NUMFMT.zero b.DBUF = true

theorem dly_DTIME (h : dly P x b = .ok (b', y)) : b'.DTIME = b.DTIME := by
  obtain ⟨-, -, -, hd, -⟩ := dly_sameControl h
  exact hd

theorem dly_delayInRange (h : dly P x b = .ok (b', y)) (hb : b.DelayInRange P) : b'.DelayInRange P := by
  refine ⟨?_, ?_, ?_⟩
  · rw [dly_D_WCUR h]; exact Nat.mod_lt _ (Nat.zero_lt_of_lt hb.d_wcur)
  · rw [dly_DTIME h]; exact hb.dtime
  · rw [dly_DBUF h]; exact write_wf hb.memory _ _

theorem dly_delayLatency (h : dly P x b = .ok (b', y)) : delayLatency P b' = delayLatency P b := by
  rw [delayLatency, delayLatency, dly_DTIME h]

theorem dly_futureTap (h : dly P x b = .ok (b', y)) (j : Nat) : futureTap P b' j = futureTap P b (j + 1) := by
  simp only [futureTap, delayTap, dly_D_WCUR h, dly_DTIME h, Nat.mod_add_mod, Nat.add_assoc, Nat.add_comm 1 j]

/-- The output is the front of the queue. -/
theorem futureRead_zero_of_dly (h : dly P x b = .ok (b', y)) : futureRead P b 0 = y := by
  obtain ⟨-, hw, hy, -⟩ := dly_cases h
  rw [futureRead, futureTap_zero hw, hy]

/-- The last of the taps to come reads the echo. -/
theorem dly_futureRead_last (h : dly P x b = .ok (b', y)) (hb : b.DelayInRange P) (hj : delayLatency P b = j + 1) :
    futureRead P b' j = echo P x y := by
  rw [futureRead, dly_futureTap h, dly_read h hb.memory, if_pos (hj ▸ futureTap_delayLatency hb.d_wcur)]

/-- Every other one moves up. -/
theorem dly_futureRead (h : dly P x b = .ok (b', y)) (hb : b.DelayInRange P) (hj : j + 1 < delayLatency P b) :
    futureRead P b' j = futureRead P b (j + 1) := by
  rw [futureRead, dly_futureTap h, dly_read h hb.memory,
    if_neg (futureTap_ne_cursor hb.d_wcur hb.dtime j.succ_pos hj), futureRead]

/-- One DLY: the output leaves the queue at its front, the echo enters it at its back. -/
theorem dly_upcoming (h : dly P x b = .ok (b', y)) (hb : b.DelayInRange P) :
    y :: upcoming P b' = upcoming P b ++ [echo P x y] := by
  obtain ⟨n, hn⟩ := Nat.exists_eq_add_one.mpr (delayLatency_pos hb.dtime)
  have hshift : ∀ j ∈ List.range n, futureRead P b' j = futureRead P b (j + 1) := fun j hj =>
    dly_futureRead h hb (hn ▸ Nat.add_lt_add_right (List.mem_range.mp hj) 1)
  have hback : upcoming P b' = (List.range n).map (futureRead P b ∘ Nat.succ) ++ [echo P x y] := by
    rw [upcoming, dly_delayLatency h, hn, List.range_succ, List.map_append, List.map_singleton,
      dly_futureRead_last h hb hn, List.map_congr_left hshift]
    rfl
  have hfront : upcoming P b = y :: (List.range n).map (futureRead P b ∘ Nat.succ) := by
    rw [upcoming, hn, List.range_succ_eq_map, List.map_cons, List.map_map, futureRead_zero_of_dly h]
  rw [hback, hfront, List.cons_append]

/-! ## Runs -/

/-- The outputs of a run are the queue's first contents and then the run's own echoes. -/
theorem dlyRun_prefix (xs : List ν) (hb : b.DelayInRange P) :
    ∃ ys b', dlyRun P xs b = .ok (ys, b') ∧ ys.length = xs.length
      ∧ ys <+: upcoming P b ++ List.zipWith (echo P) xs ys := by
  induction xs generalizing b with
  | nil => exact ⟨[], b, rfl, rfl, List.nil_prefix⟩
  | cons x xs ih =>
    obtain ⟨⟨b1, y⟩, h⟩ : ∃ r, dly P x b = .ok r := ⟨_, dly_completes x hb.d_wcur⟩
    obtain ⟨ys, b', hrun, hlen, hpre⟩ := ih (dly_delayInRange h hb)
    refine ⟨y :: ys, b', by simp only [dlyRun, h, hrun], congrArg (· + 1) hlen, ?_⟩
    rw [List.zipWith_cons_cons, List.append_cons, ← dly_upcoming h hb, List.cons_append, List.cons_prefix_cons]
    exact ⟨rfl, hpre⟩

/-- Settles O47: an empty buffer is a queue of zeros, as many as the latency; behind them the outputs are the echoes. -/
theorem delayRecurrence : Obligations.DelayRecurrence := by
  intro ν _ P xs b hbuf hcur hd F D
  have hb : b.DelayInRange P := ⟨hcur ▸ Nat.zero_lt_of_lt hd, hd, by rw [hbuf]; rfl⟩
  obtain ⟨ys, b', hrun, hlen, hpre⟩ := dlyRun_prefix xs hb
  have hlat : (upcoming P b).length = D := length_upcoming
  have hout : ∀ t, t < xs.length → ys[t]? = (upcoming P b ++ List.zipWith (echo P) xs ys)[t]? := fun t ht => by
    rw [List.prefix_iff_getElem?.mp hpre t (hlen ▸ ht), List.getElem?_eq_getElem (hlen ▸ ht)]
  refine ⟨ys, b', hrun, hlen, fun t ht htD => ?_, fun t x y hDt ht hx hy => ?_⟩
  · rw [hout t ht, List.getElem?_append_left (hlat ▸ htD), upcoming_of_empty hbuf]
    exact List.getElem?_replicate_of_lt htD
  · rw [hout t ht, List.getElem?_append_right (hlat ▸ hDt), hlat]
    exact List.getElem?_zipWith_eq_some.mpr ⟨x, y, hx, hy, rfl⟩

end Sys2Proof.Machine
end

section
/-! SUPPORT. The registers that the Bass voice takes from its sequencer and from its envelope (44_voices.md R131). -/

namespace Sys2Proof.Machine

variable {ν : Type} {P : Params ν} {b : Block ν}

theorem bassVoice_SPQ (e : BassEvent) : (bassVoice P e b).1.SPQ = b.SPQ := rfl

theorem bassVoice_B_Q (e : BassEvent) : (bassVoice P e b).1.B_Q = b.B_Q := rfl

theorem bassVoice_B_ENV (e : BassEvent) : (bassVoice P e b).1.B_ENV = (envb P e.restruck b).1.B_ENV := rfl

end Sys2Proof.Machine
end

section
/-! SUPPORT. The Bass sample in exact real arithmetic with the default gains (44_voices.md R131): the pulse and the
sub-oscillator are each bounded by the gain, the first under an envelope that falls from 1 within a quantum. -/

namespace Sys2Proof.Reference

open Sys2Proof.Machine

theorem wrap1_mem_Ico (x : ℝ) : wrap1 numfmt x ∈ Set.Ico 0 1 := ⟨Int.fract_nonneg x, Int.fract_lt_one x⟩

/-- A pulse wave is at one of its two levels (40_waveform_primitives.md R93). -/
theorem abs_pwm_eq_one {P : Params ℝ} (hN : P.NUMFMT = numfmt) (hP : P.wf = true) {phase : ℝ}
    (h : phase ∈ Set.Ico 0 1) (width : ℝ) : |pwm P phase width| = 1 := by
  obtain ⟨hp0, hp1⟩ := h
  obtain ⟨-, hbounds⟩ := wf_bounds hP
  obtain ⟨hw0, hw1⟩ := clamp_mem_Ioo hN hbounds width
  rcases lt_or_ge (phase + clamp numfmt width P.PW_LO P.PW_HI) 1 with hlt | hge
  · rw [pwm_low hN rfl (add_nonneg hp0 hw0.le) hlt, abs_neg, abs_one]
  · rw [pwm_high hN rfl hge (by linarith), abs_one]

section
variable (o : OpenParams ℝ) {b b' : Block ℝ}

/-- The gain is common to the pulse and the sub-oscillator, the envelope is on the pulse alone. -/
theorem bassVoice_value_params (e : BassEvent) : (bassVoice (params o) e b).2
    = pwm (params o) (bassVoice (params o) e b).1.B_PH1 (bassWidth (params o) (bassVoice (params o) e b).1.B_LFO) * 0.3
        * (envb (params o) e.restruck b).2
      + pdsaw (params o) (bassVoice (params o) e b).1.B_PH2 (params o).BASS_SUB_DUTY * 0.3 := by
  have hgain : (params o).BASS_GAIN = 0.3 := by norm_num [params, defaultParams]
  rw [bassVoice_value, hgain, params_numfmt]
  simp only [numfmt_add, numfmt_mul]

theorem abs_bassVoice_value_le (e : BassEvent) (henv : (envb (params o) e.restruck b).2 ∈ Set.Icc 0 1) :
    |(bassVoice (params o) e b).2| ≤ 0.6 := by
  obtain ⟨henv0, henv1⟩ := henv
  rw [bassVoice_value_params]
  set pulse := pwm (params o) (bassVoice (params o) e b).1.B_PH1
    (bassWidth (params o) (bassVoice (params o) e b).1.B_LFO)
  set sub := pdsaw (params o) (bassVoice (params o) e b).1.B_PH2 (params o).BASS_SUB_DUTY
  set env := (envb (params o) e.restruck b).2
  have hpulse : |pulse| = 1 := abs_pwm_eq_one rfl (params_wf o) (wrap1_mem_Ico _) _
  have hsub : |sub| ≤ 1 := abs_pdsaw_le_one rfl _ _
  have hgain : |(0.3 : ℝ)| = 0.3 := abs_of_nonneg (by norm_num)
  calc |pulse * 0.3 * env + sub * 0.3| ≤ |pulse * 0.3 * env| + |sub * 0.3| := abs_add_le _ _
    _ = 1 * 0.3 * env + |sub| * 0.3 := by rw [abs_mul, abs_mul, abs_mul, hpulse, hgain, abs_of_nonneg henv0]
    _ ≤ 1 * 0.3 * 1 + 1 * 0.3 := by gcongr
    _ = 0.6 := by norm_num

end

/-- Inside a quantum the Bass envelope has fallen from 1 by `1 / SPQ` a tick (43_envelope.md R121). -/
abbrev BassDecay (b : Block ℝ) : Prop := b.B_Q ≠ 0 → b.B_ENV = 1 - (b.B_Q : ℝ) / (b.SPQ : ℝ)

section
variable {P : Params ℝ} (hN : P.NUMFMT = numfmt) {b : Block ℝ} (h : BassDecay b)
include hN h

/-- ENVB answers the decay's value, on a boundary by the restrike. -/
theorem envb_value_of_bassDecay :
    (envb P (decide (b.B_Q = 0)) (advanceBass P b)).2 = 1 - (b.B_Q : ℝ) / (b.SPQ : ℝ) := by
  by_cases hq : b.B_Q = 0
  · simp [hq, hN]
  · simp [hq, h hq]

/-- It stores the next tick's value of the decay, unless the quantum ends there. -/
theorem envb_B_ENV_of_bassDecay (hq : (advanceBass P b).B_Q ≠ 0) :
    (envb P (decide (b.B_Q = 0)) (advanceBass P b)).1.B_ENV
      = 1 - ((advanceBass P b).B_Q : ℝ) / ((advanceBass P b).SPQ : ℝ) := by
  rw [envb_B_ENV_numfmt hN, envb_value_of_bassDecay hN h]
  rw [advanceBass_B_Q] at hq ⊢
  split at hq
  · exact absurd rfl hq
  · next hne =>
    rw [advanceBass_SPQ, if_neg hne, Nat.cast_add_one, add_div]
    ring

end

/-- One BASS under the decay: the sample is bounded, and the decay goes on. -/
theorem bass_bounded {o : OpenParams ℝ} {b b' : Block ℝ} {x : ℝ} (h : bass (params o) b = .ok (b', x))
    (hq : b.B_Q < b.SPQ) (hd : BassDecay b) : |x| ≤ 0.6 ∧ BassDecay b' := by
  obtain ⟨b1, e, hs, rfl, rfl⟩ := bass_cases h
  obtain ⟨arp, root, -, -, rfl, rfl⟩ := seqb_cases hs
  have hspq : (b.B_Q : ℝ) ≤ b.SPQ := Nat.cast_le.mpr hq.le
  refine ⟨abs_bassVoice_value_le o _ ?_, ?_⟩
  · rw [envb_value_of_bassDecay rfl hd]
    exact ⟨sub_nonneg.mpr (div_le_one_of_le₀ hspq (Nat.cast_nonneg _)), sub_le_self 1 (by positivity)⟩
  · rw [BassDecay, bassVoice_B_Q, bassVoice_SPQ, bassVoice_B_ENV]
    exact envb_B_ENV_of_bassDecay rfl hd

end Sys2Proof.Reference
end

section
/-! SUPPORT. The bounds on the envelopes and on the delay buffer in exact real arithmetic with the default parameters
(46_mixer_and_commands.md R157): a successful INIT meets them, every TICK keeps them, and they bound the sample. -/

namespace Sys2Proof.Reference

open Sys2Proof.Machine

section
variable {o : OpenParams ℝ} {b b' : Block ℝ} {x y c : ℝ}

theorem params_zero (o : OpenParams ℝ) : (params o).NUMFMT.zero = 0 := Int.cast_zero

theorem wfSizes_params (o : OpenParams ℝ) : (params o).wfSizes = true := defaultParams_wfSizes _ _

/-- LEAD keeps the smoothed envelope in [0,1] (43_envelope.md R120). -/
theorem lead_L_ESM_mem_Icc (h : lead (params o) b = .ok (b', x)) (hb : b.L_ESM ∈ Set.Icc 0 1) :
    b'.L_ESM ∈ Set.Icc 0 1 := by
  obtain ⟨b1, e, hs, rfl, -⟩ := lead_cases h
  have hesm : b1.L_ESM = b.L_ESM := by rw [seql_frame hs]
  exact envl_L_ESM_mem_Icc o e.restruck e.gate (hesm ▸ hb)

theorem abs_lead_le (h : lead (params o) b = .ok (b', x)) (hb : b.L_ESM ∈ Set.Icc 0 1) : |x| ≤ 0.3 := by
  obtain ⟨hb0, hb1⟩ := hb
  obtain ⟨-, hle⟩ := leadMutedUntilGate o b b' x h
  exact hle hb0 hb1

theorem abs_echo_le (hx : |x| ≤ 0.3) (hy : |y| ≤ c) : |echo (params o) x y| ≤ 0.3 + 0.35 * c := by
  have hfb : echo (params o) x y = x + 0.35 * y := by norm_num [echo, params, defaultParams]
  have hgain : |(0.35 : ℝ)| = 0.35 := abs_of_nonneg (by norm_num)
  calc |echo (params o) x y| ≤ |x| + |0.35 * y| := hfb ▸ abs_add_le _ _
    _ = |x| + 0.35 * |y| := by rw [abs_mul, hgain]
    _ ≤ 0.3 + 0.35 * c := by gcongr

/-- One DLY on a Lead sample: `0.3 / (1 - FB)` is the bound that the echo reproduces (45_delay.md R140). -/
theorem dly_bounded (h : dly (params o) x b = .ok (b', y)) (hx : |x| ≤ 0.3)
    (hm : Memory.wf (params o).NUMFMT.zero b.DBUF = true) (hc : ∀ a, |b.DBUF.read 0 a| ≤ 0.3 / (1 - 0.35)) :
    |y| ≤ 0.3 / (1 - 0.35) ∧ ∀ a, |b'.DBUF.read 0 a| ≤ 0.3 / (1 - 0.35) := by
  obtain ⟨-, -, hread, -⟩ := dly_cases h
  rw [params_zero] at hread
  have hy : |y| ≤ 0.3 / (1 - 0.35) := hread ▸ hc _
  refine ⟨hy, fun a => ?_⟩
  have hcell := dly_read h hm a
  rw [params_zero] at hcell
  rw [hcell]
  split
  · exact (abs_echo_le hx hy).trans_eq (by norm_num)
  · exact hc a

/-- No real number is non-finite, so every mixed sample is driven. -/
theorem emit_params (b : Block ℝ) (x : ℝ) : emit (params o) b x = (b, some x) := if_pos rfl

/-- One TICK within the bounds, slot by slot: BASS continues its decay, LEAD keeps its smoothed envelope, DLY its cells,
and each slot's sample is bounded. -/
theorem tick_bounded (h : b.Bounded (params o)) : ∃ b' y, tick (params o) b = .ok (b', some y)
    ∧ b'.Bounded (params o) ∧ |y| ≤ 0.6 + 0.3 + 0.3 / (1 - 0.35) := by
  obtain ⟨b1, xb, b2, xl, b3, xd, hb, hl, hd, hi⟩ := schedule_completes (wfSizes_params o) h.inRange
  have hs := schedule_of_slots hb hl hd
  obtain ⟨hxb, hdecay⟩ := bass_bounded hb h.inRange.b_q h.b_env
  obtain ⟨-, -, -, -, -, -, hesm, -⟩ := bass_sameLead hb
  have hesm1 : b1.L_ESM ∈ Set.Icc 0 1 := hesm ▸ ⟨h.l_esm_nonneg, h.l_esm_le_one⟩
  have hxl := abs_lead_le hl hesm1
  have hesm3 : b3.L_ESM = b2.L_ESM := dly_agree hd (r := .L_ESM) (by decide)
  obtain ⟨hesm0, hesmle⟩ := hesm3 ▸ lead_L_ESM_mem_Icc hl hesm1
  obtain ⟨-, hbuf1⟩ := bass_sameDelay hb
  obtain ⟨-, hbuf2⟩ := lead_sameDelay hl
  have hbuf : b2.DBUF = b.DBUF := hbuf2.trans hbuf1
  obtain ⟨hxd, hcells⟩ := dly_bounded hd hxl (hbuf ▸ h.inRange.memory) (hbuf ▸ h.cells)
  obtain ⟨hBQ, -, -, hBENV, -⟩ := lead_sameBass hl
  have hq3 : b3.B_Q = b1.B_Q := (dly_agree hd (r := .B_Q) (by decide)).trans hBQ
  have henv3 : b3.B_ENV = b1.B_ENV := (dly_agree hd (r := .B_ENV) (by decide)).trans hBENV
  obtain ⟨-, -, hspq, -, hmode, -⟩ := schedule_control hs
  obtain ⟨-, -, hspq1, -⟩ := bass_sameControl hb
  refine ⟨b3, mix numfmt xb xl xd, by rw [tick_running h.running hs, emit_params]; rfl,
    ⟨hi, hmode.trans h.running, hesm0, hesmle, ?_, hcells⟩, ?_⟩
  · rw [hq3, henv3, hspq, ← hspq1]
    exact hdecay
  · calc |xb + xl + xd| ≤ |xb| + |xl| + |xd| := abs_add_three _ _ _
      _ ≤ 0.6 + 0.3 + 0.3 / (1 - 0.35) := by gcongr

/-- A successful INIT leaves the envelopes at their reset values and the buffer empty. -/
theorem configured_bounded (V : FreeValues ℝ) {rate : ℝ} (b : Block ℝ) (hc : initCheck (params o) rate = .none) :
    (configured (params o) V rate b).Bounded (params o) := by
  refine ⟨configured_inRange _ V rate b (wfSizes_params o) hc, rfl, ?_, ?_, fun hq => absurd rfl hq,
    fun a => ?_⟩
  · simp
  · simp
  · rw [configured_DBUF, read_nil, abs_zero]
    norm_num

end

/-- Settles O60: the TICK by its slots, the INIT by R49's values. -/
theorem boundedKeptByTick : Obligations.BoundedKeptByTick :=
  ⟨fun _ _ h => tick_bounded h, fun _ V _ b hm hc => init_of_check V hm hc ▸ configured_bounded V b hc⟩

/-- A run of TICKs within the bounds, by induction on their number. -/
theorem tickRun_bounded {o : OpenParams ℝ} (n : Nat) {b : Block ℝ} (h : b.Bounded (params o)) :
    ∃ ys b', tickRun (params o) n b = .ok (ys, b') ∧ ys.length = n ∧ b'.Bounded (params o)
      ∧ ∀ y ∈ ys, |y| ≤ 0.6 + 0.3 + 0.3 / (1 - 0.35) := by
  induction n generalizing b with
  | zero => exact ⟨[], b, rfl, rfl, h, by simp⟩
  | succ n ih =>
    obtain ⟨b1, y, ht, h1, hy⟩ := tick_bounded h
    obtain ⟨ys, b', hr, hlen, h', hys⟩ := ih h1
    exact ⟨y :: ys, b', tickRun_succ_of ht hr, congrArg (· + 1) hlen, h', List.forall_mem_cons.mpr ⟨hy, hys⟩⟩

/-- Settles O57: a successful INIT meets the bounds, and every TICK of the run keeps them. -/
theorem outputBound : Obligations.OutputBound := by
  intro o V rate b n hm hc
  obtain ⟨ys, b', hr, hlen, h', hys⟩ := tickRun_bounded n (configured_bounded V b hc)
  exact ⟨ys, b', (init_of_check V hm hc) ▸ hr, hlen, h'.running, hys⟩

end Sys2Proof.Reference
end

section
/-! SUPPORT. NOP, RESET and INIT (46_mixer_and_commands.md R150, R151, R153, R154): what a command finds on `sample` it
never uses, the reset values under any control registers, and the paths of INIT by its checks. -/

namespace Sys2Proof.Machine

variable {ν : Type} {P : Params ν} {rate : ν} {b : Block ν}

/-! ## NOP -/

/-- No command reads the output it is about to drive (30_encoding.md R74). -/
theorem exec_withSample (i : Instr) (s : State) (out : Option NumCode) :
    exec i { s with sample := out } = exec i s := by
  cases i <;> rfl

/-- Settles O15: NOP writes `sample` alone, and no command reads it. -/
theorem nopChangesNothing : Obligations.NopChangesNothing := by
  refine fun s => ⟨rfl, fun i s1 h => ?_⟩
  cases h
  exact exec_withSample i s none

/-! ## RESET -/

/-- Whatever the control registers, the registers beside them are at R49's values. -/
theorem resetRegisters_atReset (F : NumFmt ν) (b : Block ν) (rate period : ν) (spq dtime : Nat) (mode : Mode)
    (cause : Cause) :
    Block.AtReset F { resetRegisters F b with
      RATE := rate, T := period, SPQ := spq, DTIME := dtime, MODE := mode, CAUSE := cause } :=
  ⟨rfl, rfl, rfl, rfl, rfl, rfl, rfl, rfl, rfl, rfl, rfl, rfl, rfl, rfl, rfl, rfl, rfl, rfl, fun _ => rfl⟩

theorem resetBlock_atReset (P : Params ν) (V : FreeValues ν) (k : Nat) (b : Block ν) :
    (resetBlock P V k b).AtReset P.NUMFMT :=
  resetRegisters_atReset _ _ _ _ _ _ _ _

theorem configured_atReset (V : FreeValues ν) : (configured P V rate b).AtReset P.NUMFMT :=
  resetRegisters_atReset _ _ _ _ _ _ _ _

/-- But for the four unspecified registers RESET leaves the block of power-on. -/
theorem resetBlock_eq_powerOn (P : Params ν) (V : FreeValues ν) (k : Nat) (b : Block ν) :
    { resetBlock P V k b with
      RATE := (powerOn P.NUMFMT).RATE, T := (powerOn P.NUMFMT).T, SPQ := (powerOn P.NUMFMT).SPQ
      DTIME := (powerOn P.NUMFMT).DTIME } = powerOn P.NUMFMT := rfl

/-- Settles O16: RESET's block is at the reset values and power-on's. -/
theorem resetCommand : Obligations.ResetCommand := fun s =>
  ⟨_, rfl, rfl, rfl, resetBlock_atReset params free s.freeIndex s.block, rfl,
    resetBlock_eq_powerOn params free s.freeIndex s.block, rfl, rfl⟩

/-! ## INIT -/

theorem initCheck_cfgRate (h : ¬ (P.NUMFMT.isFinite rate = true ∧ P.NUMFMT.lt P.NUMFMT.zero rate = true)) :
    initCheck P rate = .cfgRate := by
  have hfalse : (P.NUMFMT.isFinite rate && P.NUMFMT.lt P.NUMFMT.zero rate) = false := by
    rwa [← Bool.not_eq_true, Bool.and_eq_true]
  rw [initCheck, hfalse, Bool.not_false, if_pos rfl]

section
variable (hpos : P.NUMFMT.isFinite rate = true ∧ P.NUMFMT.lt P.NUMFMT.zero rate = true)
include hpos

theorem initCheck_cfgSpq (hs : spqOf P rate < 1) : initCheck P rate = .cfgSpq := by
  rw [initCheck, if_neg (by simp [hpos]), if_pos hs]

theorem initCheck_cfgDelay (hs : 1 ≤ spqOf P rate) (hd : (P.DELAY_CAP : Int) ≤ dtimeOf P rate) :
    initCheck P rate = .cfgDelay := by
  rw [initCheck, if_neg (by simp [hpos]), if_neg hs.not_gt, if_pos hd]

end

/-- Outside FAILED a fault entry records its cause (60_exceptions.md R172). -/
theorem raiseFault_of_ne_failed (c : Cause) (hm : b.MODE ≠ .failed) :
    raiseFault c b = { b with MODE := .failed, CAUSE := c } := by
  rw [raiseFault, if_neg hm]

/-- A failed check is the fault of its cause, with nothing but MODE and CAUSE written. -/
theorem init_of_fault {c : Cause} (V : FreeValues ν) (hm : b.MODE ≠ .failed) (hc : initCheck P rate = c)
    (hne : c ≠ .none) : init P V rate b = { b with MODE := .failed, CAUSE := c } := by
  subst hc
  rw [init, if_neg hm, if_neg hne, raiseFault_of_ne_failed _ hm]

/-- A delay time that is not negative is latched as it is. -/
theorem configured_DTIME_of_nonneg (V : FreeValues ν) (h : 0 ≤ dtimeOf P rate) :
    ((configured P V rate b).DTIME : Int) = dtimeOf P rate := by
  rw [configured_DTIME, delayTimeOf, if_pos h, Int.toNat_of_nonneg h]

/-- Settles O18: each path by the check that decides it; the latched registers are those of `configured`. -/
theorem initCommand : Obligations.InitCommand := by
  refine ⟨fun _ => rfl, ?_⟩
  intro ν P V rate b F qn spq dt positive
  refine ⟨fun hm => if_pos hm, fun hm hn => ?_, fun hm hp hs => ?_, fun hm hp hs hd => ?_, fun hm hp hs hd => ?_⟩
  · exact init_of_fault V hm (initCheck_cfgRate hn) (by decide)
  · exact init_of_fault V hm (initCheck_cfgSpq hp hs) (by decide)
  · exact init_of_fault V hm (initCheck_cfgDelay hp hs hd) (by decide)
  · obtain ⟨hfin, hpos⟩ := hp
    rw [init_of_check V hm ((initCheck_none P rate).mpr ⟨hfin, hpos, hs, hd⟩)]
    exact ⟨rfl, rfl, Int.toNat_of_nonneg (Int.le_of_lt hs), configured_DTIME_of_nonneg V, configured_atReset V, rfl,
      rfl⟩

/-- A configuration overwrites every register of the block it finds. -/
theorem configured_forgets (V : FreeValues ν) (b1 b2 : Block ν) : configured P V rate b1 = configured P V rate b2 := rfl

/-- Settles O19: both INITs configure the block, which forgets what it found; the runs start from one block. -/
theorem initForgetsHistory : Obligations.InitForgetsHistory := by
  intro ν _ P V rate b1 b2 hm1 hm2 hc
  have h : init P V rate b1 = init P V rate b2 := by
    rw [init_of_check V hm1 hc, init_of_check V hm2 hc, configured_forgets V b1 b2]
  exact ⟨h, fun n => congrArg (tickRun P n) h⟩

end Sys2Proof.Machine
end

section
/-! SUPPORT. TICK (46_mixer_and_commands.md R152) by mode, what it leaves unchanged (70_reset_and_hazards.md R203), and
RENDER as a run of TICKs (30_encoding.md R81). -/

namespace Sys2Proof.Machine

section
variable {ν : Type} [DecidableEq ν] {P : Params ν} {b b' : Block ν} {x : ν}

theorem tick_unconfigured (hm : b.MODE = .unconfigured) :
    tick P b = .ok ({ b with MODE := .failed, CAUSE := .tickUnconf }, none) := by
  rw [tick, hm, raiseFault_of_ne_failed _ (by simp [hm])]

theorem tick_failed (hm : b.MODE = .failed) : tick P b = .ok (b, none) := by
  rw [tick, hm]

/-- A finite mixed sample is driven. -/
theorem tick_of_finite (hm : b.MODE = .running) (hs : schedule P b = .ok (b', x)) (hx : P.NUMFMT.isFinite x = true) :
    tick P b = .ok (b', some x) := by
  rw [tick_running hm hs, emit, if_pos hx]

/-- A non-finite one is the fault NONFINITE, on the block the schedule leaves, still in RUNNING. -/
theorem tick_of_nonfinite (hm : b.MODE = .running) (hs : schedule P b = .ok (b', x))
    (hx : P.NUMFMT.isFinite x ≠ true) : tick P b = .ok ({ b' with MODE := .failed, CAUSE := .nonfinite }, none) := by
  obtain ⟨-, -, -, -, hmode, -⟩ := schedule_control hs
  rw [tick_running hm hs, emit, if_neg hx, raiseFault_of_ne_failed _ (by simp [hmode, hm])]

/-- MODE and CAUSE after a TICK in RUNNING: as they were, or those of the one fault it can take. -/
theorem tick_mode_cause {out : Option ν} (hm : b.MODE = .running) (h : tick P b = .ok (b', out)) :
    (b'.MODE = .running ∧ b'.CAUSE = b.CAUSE) ∨ (b'.MODE = .failed ∧ b'.CAUSE = .nonfinite) := by
  rcases tick_cases h with ⟨hu, -⟩ | ⟨hf, -⟩ | ⟨-, b1, x, hs, hx⟩
  · exact absurd (hm.symm.trans hu) (by decide)
  · exact absurd (hm.symm.trans hf) (by decide)
  · obtain ⟨-, -, -, -, hmode, hcause⟩ := schedule_control hs
    have hm1 : b1.MODE = .running := hmode.trans hm
    rcases hx with ⟨-, rfl, -⟩ | ⟨-, rfl, -⟩
    · exact .inl ⟨hm1, hcause⟩
    · exact .inr ⟨rfl, by simp [hm1]⟩

/-- The schedule writes the cell at the cursor and no other: BASS and LEAD leave cursor and buffer to DLY. -/
theorem schedule_read_other (h : schedule P b = .ok (b', x)) {a : Nat} (ha : a ≠ b.D_WCUR) :
    b'.DBUF.read P.NUMFMT.zero a = b.DBUF.read P.NUMFMT.zero a := by
  obtain ⟨b1, xb, b2, xl, xd, hb, hl, hd, -⟩ := schedule_cases h
  obtain ⟨hcur1, hbuf1⟩ := bass_sameDelay hb
  obtain ⟨hcur2, hbuf2⟩ := lead_sameDelay hl
  rw [dly_DBUF hd, hcur2, hcur1, hbuf2, hbuf1, read_write_other _ _ _ _ _ ha]

theorem tick_read_other {out : Option ν} (h : tick P b = .ok (b', out)) {a : Nat} (ha : a ≠ b.D_WCUR) :
    b'.DBUF.read P.NUMFMT.zero a = b.DBUF.read P.NUMFMT.zero a := by
  rcases tick_cases h with ⟨-, rfl, -⟩ | ⟨-, rfl, -⟩ | ⟨-, b1, x, hs, ⟨-, rfl, -⟩ | ⟨-, rfl, -⟩⟩
  · rfl
  · rfl
  · exact schedule_read_other hs ha
  · exact schedule_read_other hs ha

end

/-- Settles O21: TICK by mode, in RUNNING by the mixed sample. -/
theorem tickCommand : Obligations.TickCommand := by
  refine fun s => ⟨fun hm => execTick_of_ok (tick_unconfigured hm), fun hm => execTick_of_ok (tick_failed hm), ?_⟩
  intro hm b1 b2 b3 xb xl xd hb hl hd out
  have hs : schedule params s.block = .ok (b3, out) := schedule_of_slots hb hl hd
  split
  · next hx => exact execTick_of_ok (tick_of_finite hm hs hx)
  · next hx => exact execTick_of_ok (tick_of_nonfinite hm hs hx)

/-- Settles O22: under the invariant the three slots answer, and then TICK does what `tickCommand` says. -/
theorem tickCompletes : Obligations.TickCompletes := by
  intro s hm hi
  obtain ⟨b1, xb, b2, xl, b3, xd, hb, hl, hd, -⟩ := schedule_completes params_wfSizes hi
  obtain ⟨-, -, hrun⟩ := tickCommand s
  have htick := hrun hm b1 b2 b3 xb xl xd hb hl hd
  refine ⟨b1, b2, b3, xb, xl, xd, _, hb, hl, hd, htick, ?_⟩
  obtain ⟨-, -, -, -, hmode, -⟩ := schedule_control (schedule_of_slots hb hl hd)
  split
  · exact .inl ⟨rfl, rfl, hmode.trans hm⟩
  · exact .inr ⟨rfl, rfl, rfl⟩

theorem execTick_cases {s t : State} (h : exec .tick s = .next t) :
    ∃ b out, tick params s.block = .ok (b, out) ∧ t = s.complete b out := by
  cases ht : tick params s.block with
  | error f => exact nomatch (execTick_of_error ht).symm.trans h
  | ok r =>
    have hnext := (execTick_of_ok ht).symm.trans h
    cases hnext
    exact ⟨r.1, r.2, rfl, rfl⟩

/-- Settles O23: TICK completes with the block of `tick`, which keeps the derived registers and the other cells; the
rest of the state is not TICK's to write. -/
theorem tickFrame : Obligations.TickFrame := by
  intro s t hm h
  obtain ⟨b, out, ht, rfl⟩ := execTick_cases h
  have hkeep := tick_keeps ht
  exact ⟨hkeep.rate, hkeep.period, hkeep.spq, hkeep.dtime, tick_mode_cause hm ht,
    fun _ a ha => tick_read_other ht ha, rfl, rfl, rfl⟩

/-! ## RENDER -/

/-- A run of `n + 1` transactions is a step and then a run of `n`. -/
theorem scriptRun_succ_of {n : Nat} {s s1 u : State} {t : Transaction NumCode} {rest : List (Transaction NumCode)}
    {ys : List NumCode} (hp : s.pending = t :: rest) (h : step s = .next s1) (hr : scriptRun n s1 = .next (ys, u)) :
    scriptRun (n + 1) s = .next (s1.sample.toList ++ ys, u) := by
  simp only [scriptRun, hp, h, hr]

/-- A step on a presented TICK is a tick of the block. -/
theorem step_tick {s : State} {rate : NumCode} {rest : List (Transaction NumCode)} {b : Block NumCode}
    {out : Option NumCode} (hp : s.pending = { cmd := 0x03, rate := rate } :: rest)
    (ht : tick params s.block = .ok (b, out)) :
    step s = .next ((s.present { cmd := 0x03, rate := rate } rest).complete b out) :=
  (step_command (i := .tick) hp (decode_encode .tick)).trans (execTick_of_ok ht)

/-- `n` presented TICKs, with any value on the `rate` port beside them, are a run of `n` ticks of the block. -/
theorem scriptRun_ticks {n : Nat} {s : State} {rate : NumCode} {ys : List NumCode} {b : Block NumCode}
    (hp : s.pending = List.replicate n { cmd := 0x03, rate := rate }) (h : tickRun params n s.block = .ok (ys, b)) :
    ∃ u, scriptRun n s = .next (ys, u) ∧ u.block = b ∧ u.pending = [] ∧ u.freeIndex = s.freeIndex := by
  induction n generalizing s ys with
  | zero =>
    cases h
    exact ⟨s, rfl, rfl, hp, rfl⟩
  | succ n ih =>
    obtain ⟨b1, out, ys1, ht, hr, rfl⟩ := tickRun_succ_cases h
    rw [List.replicate_succ] at hp
    have hstep := step_tick hp ht
    obtain ⟨u, hrun, hu⟩ := ih (s := (s.present _ (List.replicate n _)).complete b1 out) rfl hr
    exact ⟨u, scriptRun_succ_of hp hstep hrun, hu⟩

/-- Settles O52: RENDER presents TICKs alone. -/
theorem renderIsTickRun : Obligations.RenderIsTickRun := fun _ _ _ _ hp h => scriptRun_ticks hp h

end Sys2Proof.Machine
end

section
/-! SUPPORT. The mixer, and the sample rates INIT accepts, in exact real arithmetic (46_mixer_and_commands.md R155,
R156). -/

namespace Sys2Proof.Reference

open Sys2Proof.Machine

/-! ## MIX -/

theorem mix_numfmt (b l d : ℝ) : mix numfmt b l d = b + l + d := rfl

/-- Settles O49: MIX is two additions, on the real numbers without a bound. -/
theorem mixerSum : Obligations.MixerSum := by
  refine ⟨fun _ _ _ _ _ => rfl, mix_numfmt, ?_, ?_⟩
  · rw [mix_numfmt]; norm_num
  · rw [mix_numfmt]; norm_num

/-! ## The checks of INIT -/

section
variable {P : Params ℝ} (hN : P.NUMFMT = numfmt)
include hN

theorem spqOf_numfmt (rate : ℝ) : spqOf P rate = ⌊rate / (P.CLOCK : ℝ)⌋ := by
  simp only [spqOf, quarterNote, hN, numfmt_floor, numfmt_div, numfmt_ofInt]

theorem dtimeOf_numfmt (rate : ℝ) : dtimeOf P rate = ⌊rate / (P.CLOCK : ℝ) * P.DELAY_FACTOR⌋ := by
  simp only [dtimeOf, quarterNote, hN, numfmt_floor, numfmt_mul, numfmt_div, numfmt_ofInt]

/-- A rate of CLOCK or more is positive, so of the checks two bounds remain. -/
theorem initCheck_none_numfmt (hC : 1 ≤ P.CLOCK) (rate : ℝ) : initCheck P rate = .none ↔
    (P.CLOCK : ℝ) ≤ rate ∧ rate / (P.CLOCK : ℝ) * P.DELAY_FACTOR < (P.DELAY_CAP : ℝ) := by
  have hclock : (0 : ℝ) < P.CLOCK := Int.cast_pos.mpr hC
  have hquarter : 1 ≤ spqOf P rate ↔ (P.CLOCK : ℝ) ≤ rate := by
    rw [spqOf_numfmt hN, Int.le_floor, Int.cast_one, one_le_div hclock]
  have hdelay : dtimeOf P rate < (P.DELAY_CAP : Int) ↔ rate / (P.CLOCK : ℝ) * P.DELAY_FACTOR < (P.DELAY_CAP : ℝ) := by
    rw [dtimeOf_numfmt hN, Int.floor_lt, Int.cast_natCast]
  have hpos : P.NUMFMT.lt P.NUMFMT.zero rate = true ↔ 0 < rate := by
    simp [hN]
  rw [initCheck_none, hquarter, hdelay, hpos]
  exact ⟨fun ⟨_, _, h⟩ => h, fun h => ⟨by simp [hN], hclock.trans_le h.1, h⟩⟩

end

/-- Outside FAILED an INIT succeeds exactly when its checks pass. -/
theorem init_running_iff {ν : Type} {P : Params ν} {V : FreeValues ν} {rate : ν} {b : Block ν} (hm : b.MODE ≠ .failed) :
    (init P V rate b).MODE = .running ↔ initCheck P rate = .none := by
  rcases init_cases P V rate b with ⟨hf, -⟩ | ⟨-, hc, h⟩ | ⟨-, hc, h⟩
  · exact absurd hf hm
  · simp [h, hc]
  · simp [h, hc]

/-! ## The default parameters -/

section
variable {o : OpenParams ℝ} {V : FreeValues ℝ} {b : Block ℝ} {rate : ℝ}

theorem params_CLOCK : ((params o).CLOCK : ℝ) = 9 := Int.cast_ofNat 9

theorem params_DELAY_FACTOR : (params o).DELAY_FACTOR = 3.98 := by
  norm_num [params, defaultParams]

theorem params_DELAY_CAP : ((params o).DELAY_CAP : ℝ) = 44100 := Nat.cast_ofNat

theorem dtimeOf_params : dtimeOf (params o) rate = ⌊rate / 9 * 3.98⌋ := by
  rw [dtimeOf_numfmt rfl, params_CLOCK, params_DELAY_FACTOR]

theorem initCheck_none_params : initCheck (params o) rate = .none ↔ 9 ≤ rate ∧ rate / 9 * 3.98 < 44100 := by
  rw [initCheck_none_numfmt rfl (by decide : (1 : Int) ≤ 9), params_CLOCK, params_DELAY_FACTOR, params_DELAY_CAP]

variable (hm : b.MODE ≠ .failed)
include hm

theorem init_SPQ_le (hrun : (init (params o) V rate b).MODE = .running) : (init (params o) V rate b).SPQ ≤ 11080 := by
  have hc := (init_running_iff hm).mp hrun
  obtain ⟨-, hdelay⟩ := initCheck_none_params.mp hc
  have hspq : spqOf (params o) rate < 11081 := by
    rw [spqOf_numfmt rfl, params_CLOCK, Int.floor_lt]
    push_cast
    linarith
  rw [init_of_check V hm hc, configured_SPQ]
  omega

/-- An accepted rate whose unfloored delay lies between `d` and `d + 1`. -/
theorem init_accepts (d : Nat) (h : 9 ≤ rate ∧ (d : ℝ) ≤ rate / 9 * 3.98 ∧ rate / 9 * 3.98 < d + 1 ∧ d < 44100) :
    (init (params o) V rate b).DTIME = d ∧ (init (params o) V rate b).MODE = .running := by
  obtain ⟨h9, hlo, hhi, hd⟩ := h
  have hcap : (d : ℝ) + 1 ≤ 44100 := by exact_mod_cast hd
  have hc : initCheck (params o) rate = .none := initCheck_none_params.mpr ⟨h9, hhi.trans_le hcap⟩
  have hfloor : dtimeOf (params o) rate = (d : Int) := dtimeOf_params.trans (Int.floor_eq_iff.mpr ⟨hlo, hhi⟩)
  rw [init_of_check V hm hc]
  have hdtime := configured_DTIME_of_nonneg (b := b) V (hfloor ▸ Int.natCast_nonneg d)
  exact ⟨Int.natCast_inj.mp (hdtime.trans hfloor), rfl⟩

theorem init_refuses_delay (h : 9 ≤ rate ∧ 44100 ≤ rate / 9 * 3.98) : (init (params o) V rate b).CAUSE = .cfgDelay := by
  obtain ⟨h9, hd⟩ := h
  have hpos : 0 < rate := by linarith
  have hspq : 1 ≤ spqOf (params o) rate := by
    rw [spqOf_numfmt rfl, params_CLOCK, Int.le_floor, Int.cast_one, one_le_div (by norm_num)]
    exact h9
  have hdelay : ((params o).DELAY_CAP : Int) ≤ dtimeOf (params o) rate := by
    rw [dtimeOf_params, Int.le_floor, Int.cast_natCast, params_DELAY_CAP]
    exact hd
  rw [init_of_fault V hm (initCheck_cfgDelay ⟨rfl, by simpa using hpos⟩ hspq hdelay) (by decide)]

end

/-- Settles O20: the two bounds of the checks; for the defaults each listed rate by the floor of its delay. -/
theorem supportedRates : Obligations.SupportedRates := by
  refine ⟨fun P V rate b hN hC hm => (init_running_iff hm).trans (initCheck_none_numfmt hN hC rate), ?_⟩
  intro o V b hm after
  obtain ⟨h44, r44⟩ := init_accepts (o := o) (V := V) (rate := 44100) hm 19502 (by norm_num)
  obtain ⟨h48, r48⟩ := init_accepts (o := o) (V := V) (rate := 48000) hm 21226 (by norm_num)
  obtain ⟨h88, r88⟩ := init_accepts (o := o) (V := V) (rate := 88200) hm 39004 (by norm_num)
  obtain ⟨h96, r96⟩ := init_accepts (o := o) (V := V) (rate := 96000) hm 42453 (by norm_num)
  obtain ⟨h99, r99⟩ := init_accepts (o := o) (V := V) (rate := 99723) hm 44099 (by norm_num)
  exact ⟨fun _ => (init_running_iff hm).trans initCheck_none_params, fun _ => init_SPQ_le hm, h44, h48, h88, h96, h99,
    r44, r48, r88, r96, r99, init_refuses_delay hm (by norm_num), init_refuses_delay hm (by norm_num),
    init_refuses_delay hm (by norm_num)⟩

end Sys2Proof.Reference
end

section
/-! SUPPORT. Taking a fault (60_exceptions.md R172), what FAILED refuses (R173), and which block a command leaves by the
mode it leads to (R178, R180). -/

namespace Sys2Proof.Machine

/-! ## The fault entry -/

/-- Settles O7: the entry writes CAUSE, MODE and the outputs; the registers beside them agree. -/
theorem faultEntrySequence : Obligations.FaultEntrySequence := fun s c =>
  ⟨(ite_not _ _ _).symm, rfl, rfl, raiseFault_agree c s.block, rfl, rfl, rfl, rfl, rfl, rfl, rfl⟩

section
variable {ν : Type} {P : Params ν} {b b' : Block ν}

/-- In FAILED the first cause stands, so a fault entry writes nothing new. -/
theorem raiseFault_of_failed (c : Cause) (hm : b.MODE = .failed) : raiseFault c b = b := by
  rw [raiseFault, if_pos hm, ← hm]

theorem init_of_failed (V : FreeValues ν) (rate : ν) (hm : b.MODE = .failed) : init P V rate b = b := if_pos hm

end

/-! ## FAILED is sticky -/

theorem illegalCommand_of_failed {s : State} (hm : s.block.MODE = .failed) :
    s.illegalCommand = { s with sample := none } := by
  rw [State.illegalCommand, State.raise, raiseFault_of_failed _ hm, State.complete]

/-- In FAILED every command but RESET clears `sample_valid` and does nothing else. -/
theorem exec_of_failed {i : Instr} {s : State} (hm : s.block.MODE = .failed) (hi : i ≠ .reset) :
    exec i s = .next { s with sample := none } := by
  cases i with
  | reset => contradiction
  | nop => rfl
  | init => rw [exec, execInit, init_of_failed _ _ hm, State.complete]
  | tick => exact execTick_of_ok (tick_failed hm)
  | wrap1 | clamp | pdsaw | pwm | tri | smooth | phadv | note2f | phinc | seql | seqb | envl | envb | lead | bass | dly
  | mix => exact congrArg Host.Outcome.next (illegalCommand_of_failed hm)

/-- An unassigned word is an illegal command (30_encoding.md R78). -/
theorem step_unassigned {s : State} {t : Transaction NumCode} {rest : List (Transaction NumCode)} {e : DecodeError}
    (hp : s.pending = t :: rest) (hd : decode t.cmd = .error e) :
    step s = .next (s.present t rest).illegalCommand := by
  simp only [step, hp, hd]

/-- Settles O9: another word is refused, as an identifier or as an unassigned one; RESET's is the RESET command. -/
theorem failedIsSticky : Obligations.FailedIsSticky := by
  intro s t rest hp hm
  have hfailed : (s.present t rest).block.MODE = .failed := hm
  refine ⟨fun hc => ?_, fun hc => ?_⟩
  · cases hd : decode t.cmd with
    | ok i =>
      have hi : i ≠ .reset := by
        rintro rfl
        exact hc (encode_of_decode hd).symm
      rw [step_command hp hd, exec_of_failed hfailed hi, State.present]
    | error e => rw [step_unassigned hp hd, illegalCommand_of_failed hfailed, State.present]
  · have hd : decode t.cmd = .ok .reset := by rw [hc]; exact decode_encode .reset
    exact ⟨_, step_command hp hd, rfl, rfl, rfl⟩

/-! ## The mode a command leads to -/

section
variable {ν : Type} {P : Params ν} {rate : ν} {b b' : Block ν}

theorem init_MODE_running_iff (V : FreeValues ν) :
    (init P V rate b).MODE = .running ↔ b.MODE ≠ .failed ∧ initCheck P rate = .none := by
  by_cases hm : b.MODE = .failed
  · simp [init_of_failed V rate hm, hm]
  · simp [Reference.init_running_iff hm, hm]

/-- INIT succeeds, fails, or finds the block in FAILED. -/
theorem init_MODE_ne_unconfigured (V : FreeValues ν) : (init P V rate b).MODE ≠ .unconfigured := by
  rcases init_cases P V rate b with ⟨hm, h⟩ | ⟨-, -, h⟩ | ⟨-, -, h⟩
  · simp [h, hm]
  · simp [h]
  · simp [h]

variable [DecidableEq ν] {out : Option ν}

/-- Only RUNNING leads TICK to RUNNING, and then exactly with a sample. -/
theorem tick_MODE_running_iff (h : tick P b = .ok (b', out)) :
    b'.MODE = .running ↔ b.MODE = .running ∧ out.isSome = true := by
  rcases tick_cases h with ⟨hm, rfl, -⟩ | ⟨hm, rfl, -⟩ | ⟨hm, -⟩
  · simp [hm]
  · simp [hm]
  · simp [tick_sample_iff h, hm]

theorem tick_MODE_ne_unconfigured (h : tick P b = .ok (b', out)) : b'.MODE ≠ .unconfigured := by
  rcases tick_cases h with ⟨-, rfl, -⟩ | ⟨hm, rfl, -⟩ | ⟨hm, -⟩
  · simp
  · simp [hm]
  · rcases tick_mode_cause hm h with ⟨hmode, -⟩ | ⟨hmode, -⟩ <;> simp [hmode]

end

/-- Settles O10: by the word presented. NOP keeps the mode, RESET and an illegal word lead to one mode each, and INIT
and TICK lead where their own lemmas say. -/
theorem lifecycleModes : Obligations.LifecycleModes := by
  intro s u t rest hp h
  rcases step_cases hp h with ⟨hc, rfl⟩ | ⟨hc, rfl⟩ | ⟨hc, rfl⟩ | ⟨hc, b, out, ht, rfl⟩ | ⟨h0, h1, h2, h3, rfl⟩
  · simp [hc]
  · simp [hc]
  · simp [hc, init_MODE_running_iff, init_MODE_ne_unconfigured]
  · simp [hc, tick_MODE_running_iff ht, tick_MODE_ne_unconfigured ht]
  · exact ⟨iff_of_false (by simp) (by tauto), iff_of_false (by simp) (by tauto)⟩

/-! ## Precise faults -/

section
variable {ν : Type} {P : Params ν} {rate : ν} {b b' : Block ν}

/-- A failed INIT is a fault entry of one of its own causes on the block it found. -/
theorem init_fault (V : FreeValues ν) (hm : b.MODE ≠ .failed) (hf : (init P V rate b).MODE = .failed) :
    ∃ c, c ≠ .nonfinite ∧ init P V rate b = raiseFault c b := by
  rcases init_cases P V rate b with ⟨hfailed, -⟩ | ⟨-, -, h⟩ | ⟨-, -, h⟩
  · exact absurd hfailed hm
  · rw [h, configured_MODE] at hf
    contradiction
  · refine ⟨_, ?_, h⟩
    rcases initCheck_cases P rate with hc | hc | hc | hc <;> simp [hc]

/-- A TICK that fails is a fault entry on the block it found, or the NONFINITE of RUNNING. -/
theorem tick_fault [DecidableEq ν] {out : Option ν} (hm : b.MODE ≠ .failed) (h : tick P b = .ok (b', out))
    (hf : b'.MODE = .failed) :
    (∃ c, c ≠ .nonfinite ∧ b' = raiseFault c b) ∨ (b.MODE = .running ∧ b'.CAUSE = .nonfinite) := by
  rcases tick_cases h with ⟨-, hb, -⟩ | ⟨hfailed, -⟩ | ⟨hrun, -⟩
  · exact .inl ⟨.tickUnconf, by decide, hb⟩
  · exact absurd hfailed hm
  · rcases tick_mode_cause hrun h with ⟨hmode, -⟩ | ⟨-, hcause⟩
    · exact absurd (hmode.symm.trans hf) (by decide)
    · exact .inr ⟨hrun, hcause⟩

end

/-- A step into FAILED is a fault entry on the block it found, or the NONFINITE of a TICK in RUNNING. -/
theorem step_fault {s u : State} {t : Transaction NumCode} {rest : List (Transaction NumCode)}
    (hp : s.pending = t :: rest) (h : step s = .next u) (hm : s.block.MODE ≠ .failed) (hf : u.block.MODE = .failed) :
    (∃ c, c ≠ .nonfinite ∧ u.block = raiseFault c s.block)
      ∨ (t.cmd = 0x03 ∧ s.block.MODE = .running ∧ u.block.CAUSE = .nonfinite) := by
  rcases step_cases hp h with ⟨-, rfl⟩ | ⟨-, rfl⟩ | ⟨-, rfl⟩ | ⟨hc, b, out, ht, rfl⟩ | ⟨-, -, -, -, rfl⟩
  · exact absurd hf hm
  · exact absurd hf (by simp)
  · exact .inl (init_fault free hm hf)
  · exact (tick_fault hm ht hf).imp_right fun hrun => ⟨hc, hrun⟩
  · exact .inl ⟨.illCmd, by decide, rfl⟩

/-- Settles O12: a fault entry keeps every register but MODE and CAUSE, and records its cause; the other way into FAILED
is NONFINITE. -/
theorem faultsArePrecise : Obligations.FaultsArePrecise := by
  intro s u t rest hp h hm hf
  rcases step_fault hp h hm hf with ⟨c, hc, hu⟩ | ⟨hcmd, hrun, hcause⟩
  · rw [raiseFault_of_ne_failed c hm] at hu
    have hcause : u.block.CAUSE = c := congrArg Block.CAUSE hu
    exact ⟨fun _ => hcause ▸ hu, fun hnon => absurd (hcause.symm.trans hnon) hc⟩
  · exact ⟨fun hne => absurd hcause hne, fun _ => ⟨hcmd, hrun⟩⟩

/-! ## Power-on -/

/-- Power-on is its own control registers over R49's values. -/
theorem powerOn_atReset {ν : Type} (F : NumFmt ν) : (powerOn F).AtReset F :=
  resetRegisters_atReset F (powerOn F) F.one F.one 1 0 .unconfigured .none

/-- Settles O17: UNCONFIGURED, no cause, no sample, and the block of power-on. -/
theorem powerOnState : Obligations.PowerOnState := ⟨rfl, rfl, powerOn_atReset Config.numfmt, rfl⟩

end Sys2Proof.Machine
end

section
/-! SUPPORT. The registers each unit operation may write (70_reset_and_hazards.md R203): the "State written" line of its
rule, and no other. -/

namespace Sys2Proof.Machine

variable {ν : Type} {P : Params ν} {b b' : Block ν} {x : ν}

theorem sameControl_refl (b : Block ν) : sameControl b b := ⟨rfl, rfl, rfl, rfl, rfl, rfl⟩

theorem agree_refl (q : Register) (b : Block ν) : q.agree b b := by
  cases q <;> rfl

theorem lead_agree (h : lead P b = .ok (b', x)) {q : Register}
    (hq : q ∉ [Register.L_Q, .L_STEP, .L_PIDX, .L_ARMED, .L_GATE, .L_EACC, .L_ESM, .L_LFO, .L_PH1, .L_PH2]) :
    q.agree b' b := by
  rw [lead_frame h]
  cases q with
  | L_Q | L_STEP | L_PIDX | L_ARMED | L_GATE | L_EACC | L_ESM | L_LFO | L_PH1 | L_PH2 => simp at hq
  | B_Q | B_STEP | B_RIDX | B_ENV | B_LFO | B_PH1 | B_PH2 | D_WCUR | DBUF => rfl

theorem bass_agree (h : bass P b = .ok (b', x)) {q : Register}
    (hq : q ∉ [Register.B_Q, .B_STEP, .B_RIDX, .B_ENV, .B_LFO, .B_PH1, .B_PH2]) : q.agree b' b := by
  rw [bass_frame h]
  cases q with
  | B_Q | B_STEP | B_RIDX | B_ENV | B_LFO | B_PH1 | B_PH2 => simp at hq
  | L_Q | L_STEP | L_PIDX | L_ARMED | L_GATE | L_EACC | L_ESM | L_LFO | L_PH1 | L_PH2 | D_WCUR | DBUF => rfl

/-- A unit whose tagged answer is a unit result has itself answered, with the same block. -/
theorem ok_of_map_ok {α : Type} {v : Except Fault (Block ν × α)} {tag : α → UnitResult ν} {r : UnitResult ν}
    (h : (v.map fun y => (y.1, tag y.2)) = .ok (b', r)) : ∃ y, v = .ok (b', y) := by
  cases v with
  | error f => contradiction
  | ok y =>
    cases h
    exact ⟨y.2, rfl⟩

/-- Settles O50, by the unit: a pure operation leaves the block alone; each of the others has its frame. -/
theorem unitOperationFrames : Obligations.UnitOperationFrames := by
  intro ν _ P u b b' r h
  cases u with
  | wrap1 | clamp | pdsaw | pwm | tri | smooth | note2f | phinc | mix =>
    cases h
    exact ⟨sameControl_refl b, fun q _ => agree_refl q b⟩
  | phadv reg inc =>
    cases h
    exact ⟨writePhase_sameControl reg _, fun _ hq => writePhase_agree _ (List.ne_of_not_mem_cons hq)⟩
  | envl restruck gate =>
    cases h
    exact ⟨envl_sameControl restruck gate, fun _ hq => envl_agree restruck gate hq⟩
  | envb restruck =>
    cases h
    exact ⟨envb_sameControl restruck, fun _ hq => envb_agree restruck (List.ne_of_not_mem_cons hq)⟩
  | seql =>
    obtain ⟨e, hs⟩ := ok_of_map_ok h
    exact ⟨seql_sameControl hs, fun _ hq => seql_agree hs hq⟩
  | seqb =>
    obtain ⟨e, hs⟩ := ok_of_map_ok h
    exact ⟨seqb_sameControl hs, fun _ hq => seqb_agree hs hq⟩
  | lead =>
    obtain ⟨x, hs⟩ := ok_of_map_ok h
    exact ⟨lead_sameControl hs, fun _ hq => lead_agree hs hq⟩
  | bass =>
    obtain ⟨x, hs⟩ := ok_of_map_ok h
    exact ⟨bass_sameControl hs, fun _ hq => bass_agree hs hq⟩
  | dly x =>
    obtain ⟨y, hs⟩ := ok_of_map_ok h
    exact ⟨dly_sameControl hs, fun _ hq => dly_agree hs hq⟩

end Sys2Proof.Machine
end
